-- ==== Sys2Proof/Word.lean ====
section
/-! DEFINITION. The word types of the block: bytes, the 16-bit status and device-address words, the 32-bit
timestamp and log word, and the 7-bit bus address. Every one of them is unsigned (rule R8). -/

namespace Sys2Proof

/-- One byte: a frame byte, a payload byte, a byte of an operation record (rules R77, R100). -/
abbrev Byte := BitVec 8

/-- A 32-bit word of an observation log (rule R119). -/
abbrev Word := BitVec 32

/-- A 16-bit address in the memory of the paged device (rule R72). -/
abbrev DevAddr := BitVec 16

/-- A 7-bit bus address (rule R71). -/
abbrev BusAddr := BitVec 7

end Sys2Proof
end

