-- ==== Sys2Proof/Config.lean ====
section
/-! DEFINITION. What an implementation fixes: the configuration record of rule R6, its reference values (rule R12),
and the free values of the model, which are constants with no body. -/

namespace Sys2Proof

/-- The raw hardware status flags word (rule R38), kept at the 16 bits format F carries (rules R103, R113). How many of
them the word has is `P_FLAGS_WIDTH`. -/
abbrev Flags := BitVec 16

/-- A timestamp in a Message or an Error Context (rules R35, R39), kept in the 32 bits of its log word (rule R119). How many
of them it has is `P_TIMESTAMP_WIDTH`. -/
abbrev Timestamp := BitVec 32

/-- The seven error kinds of the slave side (rule R300). -/
inductive ErrorKind where
  | busError
  | arbitrationLost
  | overrun
  | nack
  | lineStuck
  | frame
  | timeout
deriving DecidableEq, Repr

/-- The values `P_NACK_KIND` may take (rule R6, decision D4). -/
inductive NackKind where
  | nack
  | frame
deriving DecidableEq, Repr

/-- The values `P_FORCED_RESET_SCOPE` may take (rule R6, decision D6). -/
inductive ResetScope where
  | full
  | frameOnly
deriving DecidableEq, Repr

/-- A line configuration: "direction/pull-up/port-mode register values" (rule R40). The spec makes it opaque: the
model gives it no layout, only a code that can be copied and compared (decision D47). DESIGN CHOICE (log entry 16),
safe. -/
structure LineCfg where
  code : Nat
deriving DecidableEq, Repr, Inhabited

/-- The configuration record of rule R6. No operation writes it (rule R44). -/
structure Params where
  /-- `P_RING_CAPACITY` -/
  ringCapacity : Nat
  /-- `P_FRAME_MAX` -/
  frameMax : Nat
  /-- `P_RESP_MAX` -/
  respMax : Nat
  /-- `P_SLAVE_TIMEOUT`, in ticks (decision D12) -/
  slaveTimeout : Nat
  /-- `P_TICKS_WIDTH`: the width in bits of `in_frame_ticks` -/
  ticksWidth : Nat
  /-- `P_PAGE_SIZE` -/
  pageSize : Nat
  /-- `P_EEPROM_ADDR`, OPEN -/
  eepromAddr : BusAddr
  /-- `P_PROBE_MAX`, OPEN (at least 1) -/
  probeMax : Nat
  /-- `P_BIT_DELAY`, OPEN: no rule depends on it (rule R358) -/
  bitDelay : Nat
  /-- `P_FLAGS_WIDTH`: the width in bits of the raw status word (decision D3) -/
  flagsWidth : Nat
  /-- `P_FLAG_BIT_BUS_ERR` -/
  bitBusErr : Nat
  /-- `P_FLAG_BIT_ARB_LOST` -/
  bitArbLost : Nat
  /-- `P_FLAG_BIT_OVR` -/
  bitOvr : Nat
  /-- `P_FLAG_BIT_NACK` -/
  bitNack : Nat
  /-- `P_FLAG_BIT_LINE_STUCK` -/
  bitLineStuck : Nat
  /-- `P_FLAG_BIT_FRAME_FMT` -/
  bitFrameFmt : Nat
  /-- `P_NACK_KIND` -/
  nackKind : NackKind
  /-- `P_EMPTY_FLAGS_KIND` -/
  emptyFlagsKind : ErrorKind
  /-- `P_FORCED_RESET_SCOPE` -/
  forcedResetScope : ResetScope
  /-- `P_STOP_OVERRUN_REARM` -/
  stopOverrunRearm : Bool
  /-- `P_ENQUEUE_EMPTY` -/
  enqueueEmpty : Bool
  /-- `P_POP_CLEARS_RESPONSE` -/
  popClearsResponse : Bool
  /-- `P_RESP_FILL` -/
  respFill : Byte
  /-- `P_TIMESTAMP_WIDTH`: the width in bits of a timestamp (decision D44) -/
  timestampWidth : Nat
deriving DecidableEq, Repr

/-- The reference configuration of rule R12: every "ref" value of rule R6, with the test values 0x50 and 3 for
`P_EEPROM_ADDR` and `P_PROBE_MAX`. DESIGN CHOICE (log entry 20), unsafe: `P_BIT_DELAY` has no value in the spec
and stands at 0; nothing reads it. -/
def Params.reference : Params where
  ringCapacity := 8
  frameMax := 32
  respMax := 32
  slaveTimeout := 5
  ticksWidth := 16
  pageSize := 16
  eepromAddr := 0x50
  probeMax := 3
  bitDelay := 0
  flagsWidth := 16
  bitBusErr := 0
  bitArbLost := 1
  bitOvr := 2
  bitNack := 3
  bitLineStuck := 4
  bitFrameFmt := 5
  nackKind := .nack
  emptyFlagsKind := .frame
  forcedResetScope := .full
  stopOverrunRearm := false
  enqueueEmpty := true
  popClearsResponse := false
  respFill := 0xFF
  timestampWidth := 32

/-- The configurations under which every rule has a meaning: the two moduli of rules R149 and R267 are not 0,
`P_PROBE_MAX` is at least 1, as rule R6 asks, and a status word and a timestamp fit the fields that carry them (rules
R103, R119). DESIGN CHOICE (log entries 19 and 22), safe. -/
def Params.wf (p : Params) : Bool :=
  decide (1 ≤ p.ringCapacity ∧ 1 ≤ p.pageSize ∧ 1 ≤ p.probeMax ∧ p.flagsWidth ≤ 16 ∧ p.timestampWidth ≤ 32)

/-- `CFG0`, the power-on configuration of the lines: an opaque platform value (rule R340, decision D47; log
entry 16). -/
opaque Config.cfg0 : LineCfg

/-- `MCFG`, the configuration in which the master controls a line: an opaque value (rule R40, decision D47;
log entry 16). -/
opaque Config.mcfg : LineCfg

/-- FREE VALUE: a timestamp `NowMs()` for which the environment has given no draw (rule R9, decision D11). DESIGN
CHOICE (log entry 8), safe. -/
opaque Config.freeNow : Nat → Timestamp

/-- FREE VALUE: the level of a released SDA line for which the bus device has given no draw (rule R221, decision D29).
DESIGN CHOICE (log entry 8), safe. -/
opaque Config.freeSda : Nat → Bool

/-- FREE VALUE: the Boolean result of `set_response []` (rule R184, decision D15). DESIGN CHOICE (log entry 9),
safe. -/
opaque Config.freeBool : Nat → Bool

/-- FREE VALUE: the bytes a failed master read returns (rule R270). DESIGN CHOICE (log entry 9), safe. -/
opaque Config.freeBytes : Nat → List Byte

/-- FREE VALUE: whether the IRQ agent takes the next step, where both agents have one and the schedule names
neither (rule R81: any order that keeps each agent's own order). DESIGN CHOICE (log entry 10), safe. -/
opaque Config.freeIrqFirst : Nat → Bool

/-- FREE VALUE: whether an operation refused both for its context and for a missing INIT is recorded as
`WRONG_CONTEXT`: rules R148 and R187 give both reasons and no precedence. DESIGN CHOICE (log entry 7), safe. -/
opaque Config.freeWrongContextFirst : Nat → Bool

end Sys2Proof
end

