-- ==== Sys2Proof/Syntax.lean ====
section
/-! DEFINITION. The 17 operations of rule R111, with the operands of rule R113, and the agent that may issue each. -/

namespace Sys2Proof

/-- The two executing agents, which are also the two execution contexts (rules R5, R312). -/
inductive Agent where
  | irq
  | fg
deriving DecidableEq, Repr

/-- One constructor per row of spec/opcode_table.json. A length field is the length of the payload where the record
has one (rules R106 to R109), and an operand of its own where the record has none. -/
inductive Instr where
  /-- ON_START, rule R140 -/
  | onStart (flags : Flags)
  /-- ON_BYTE, rule R141 -/
  | onByte (byte : Byte)
  /-- ON_STOP, rule R142 -/
  | onStop (flags : Flags)
  /-- ON_ERROR, rule R143 -/
  | onError (flags : Flags)
  /-- ON_TICK_1MS, rule R145 -/
  | onTick1ms
  /-- RESP_READ, rule R146 -/
  | respRead
  /-- INIT, rule R180 -/
  | init (c : Bool)
  /-- RESET, rule R181 -/
  | reset
  /-- POP_MESSAGE, rule R183 -/
  | popMessage
  /-- SET_RESPONSE, rule R184 -/
  | setResponse (data : List Byte)
  /-- GET_RESPONSE, rule R185 -/
  | getResponse
  /-- CLEAR_RESPONSE, rule R186 -/
  | clearResponse
  /-- M_WRITE, rule R262 -/
  | mWrite (a : Byte) (data : List Byte)
  /-- M_READ, rule R263 -/
  | mRead (a : Byte) (n : Byte)
  /-- M_WRITE_READ, rule R264 -/
  | mWriteRead (a : Byte) (tx : List Byte) (n : Byte)
  /-- DEV_WRITE, rule R268 -/
  | devWrite (mem : DevAddr) (data : List Byte)
  /-- DEV_READ, rule R269 -/
  | devRead (mem : DevAddr) (n : Byte)
deriving DecidableEq, Repr

/-- The agent column of rule R111: the stream in which an operation is admitted. -/
def Instr.agent : Instr → Agent
  | .onStart _ => .irq
  | .onByte _ => .irq
  | .onStop _ => .irq
  | .onError _ => .irq
  | .onTick1ms => .irq
  | .respRead => .irq
  | .init _ => .fg
  | .reset => .fg
  | .popMessage => .fg
  | .setResponse _ => .fg
  | .getResponse => .fg
  | .clearResponse => .fg
  | .mWrite _ _ => .fg
  | .mRead _ _ => .fg
  | .mWriteRead _ _ _ => .fg
  | .devWrite _ _ => .fg
  | .devRead _ _ => .fg

/-- Which operations are refused before INIT: every slave and IRQ operation but INIT (rules R148, R187); the master
operations are not (rule R232). -/
def Instr.needsInit : Instr → Bool
  | .onStart _ => true
  | .onByte _ => true
  | .onStop _ => true
  | .onError _ => true
  | .onTick1ms => true
  | .respRead => true
  | .init _ => false
  | .reset => true
  | .popMessage => true
  | .setResponse _ => true
  | .getResponse => true
  | .clearResponse => true
  | .mWrite _ _ => false
  | .mRead _ _ => false
  | .mWriteRead _ _ _ => false
  | .devWrite _ _ => false
  | .devRead _ _ => false

/-- The payload bytes of the operation's record, in stream order (rules R106 to R109). -/
def Instr.payload : Instr → List Byte
  | .onStart _ => []
  | .onByte _ => []
  | .onStop _ => []
  | .onError _ => []
  | .onTick1ms => []
  | .respRead => []
  | .init _ => []
  | .reset => []
  | .popMessage => []
  | .setResponse data => data
  | .getResponse => []
  | .clearResponse => []
  | .mWrite _ data => data
  | .mRead _ _ => []
  | .mWriteRead _ tx _ => tx
  | .devWrite _ data => data
  | .devRead _ _ => []

end Sys2Proof
end

