-- ==== Sys2Proof/WellFormed.lean ====
section
/-! DEFINITION. Which operations can be written in the encoding: the one limit is the 8-bit length field of a
payload (decision D35). Every other operand has a type of exactly its field's width. -/

namespace Sys2Proof

/-- The longest payload an 8-bit length field can name (rules R106 to R109, decision D35). -/
def maxPayload : Nat := 255

/-- A payload that its record's length field can name. -/
def payloadFits (data : List Byte) : Bool := decide (data.length ≤ maxPayload)

/-- An operation that has a record: its payload fits. -/
def Instr.wf (i : Instr) : Bool := payloadFits i.payload

end Sys2Proof
end

