-- ==== Sys2Proof/Decode.lean ====
section
/-! DEFINITION. Operation records: the decoder, the length of a record, and the encoder (30_encoding.md parts 1 to 4).
The four bytes of a header word `H` are named here by their place: `op` is `H[31:24]`, `b2` is `H[23:16]`, `b1` is
`H[15:8]` and `b0` is `H[7:0]`; the stream sends `op` first (rule R100). -/

namespace Sys2Proof

/-- Why a record is refused (rule R110): each is recorded with the one reason `DECODE`. -/
inductive DecodeError where
  /-- the header's opcode is not one of the 17 of rule R111 -/
  | reservedOpcode
  /-- a known opcode with a nonzero bit in a field marked 0 -/
  | nonzeroField
  /-- the stream ends inside the record -/
  | truncated
deriving DecidableEq, Repr

/-- The high byte of a 16-bit word, `v[15:8]`. -/
def hiByte (v : BitVec 16) : Byte := v.extractLsb' 8 8

/-- The low byte of a 16-bit word, `v[7:0]`. -/
def loByte (v : BitVec 16) : Byte := v.extractLsb' 0 8

/-- A 16-bit field of a header, from its two bytes: `H[15:0]` for `flags` and for `mem` (rule R113). -/
def word16 (hi lo : Byte) : BitVec 16 := hi ++ lo

/-- A record with no payload: admitted if its fields marked 0 are zero (rule R110). -/
def plainRecord (zeros : Bool) (i : Instr) (rest : List Byte) : Except DecodeError (Instr × List Byte) :=
  if zeros then .ok (i, rest) else .error .nonzeroField

/-- A record with `len` payload bytes after the header, taken in stream order (rules R100, R113). -/
def payloadRecord (zeros : Bool) (len : Byte) (mk : List Byte → Instr) (rest : List Byte) :
    Except DecodeError (Instr × List Byte) :=
  if !zeros then .error .nonzeroField
  else if rest.length < len.toNat then .error .truncated
  else .ok (mk (rest.take len.toNat), rest.drop len.toNat)

/-- One record: its opcode selects the format of rules R102 to R109 by the map of rule R111. -/
def decodeRecord (op b2 b1 b0 : Byte) (rest : List Byte) : Except DecodeError (Instr × List Byte) :=
  match op.toNat with
  | 0x10 => plainRecord (b2 == 0) (.onStart (word16 b1 b0)) rest
  | 0x11 => plainRecord (b2 == 0 && b1 == 0) (.onByte b0) rest
  | 0x12 => plainRecord (b2 == 0) (.onStop (word16 b1 b0)) rest
  | 0x13 => plainRecord (b2 == 0) (.onError (word16 b1 b0)) rest
  | 0x14 => plainRecord (b2 == 0 && b1 == 0 && b0 == 0) .onTick1ms rest
  | 0x15 => plainRecord (b2 == 0 && b1 == 0 && b0 == 0) .respRead rest
  | 0x20 => plainRecord (b2 == 0 && b1 == 0 && b0 >>> 1 == 0) (.init (b0 == 1)) rest
  | 0x21 => plainRecord (b2 == 0 && b1 == 0 && b0 == 0) .reset rest
  | 0x22 => plainRecord (b2 == 0 && b1 == 0 && b0 == 0) .popMessage rest
  | 0x23 => payloadRecord (b2 == 0 && b0 == 0) b1 .setResponse rest
  | 0x24 => plainRecord (b2 == 0 && b1 == 0 && b0 == 0) .getResponse rest
  | 0x25 => plainRecord (b2 == 0 && b1 == 0 && b0 == 0) .clearResponse rest
  | 0x30 => payloadRecord (b0 == 0) b1 (.mWrite b2) rest
  | 0x31 => plainRecord (b0 == 0) (.mRead b2 b1) rest
  | 0x32 => payloadRecord true b1 (fun tx => .mWriteRead b2 tx b0) rest
  | 0x33 => payloadRecord true b2 (.devWrite (word16 b1 b0)) rest
  | 0x34 => plainRecord true (.devRead (word16 b1 b0) b2) rest
  | _ => .error .reservedOpcode

/-- The first record of a stream and what follows it, or the reason it is refused (rules R110, R112). The empty stream
holds no record: it answers `truncated` there, and no step asks it (log entry 6). -/
def decode : List Byte → Except DecodeError (Instr × List Byte)
  | op :: b2 :: b1 :: b0 :: rest => decodeRecord op b2 b1 b0 rest
  | _ => .error .truncated

/-- The payload length `P` a header gives (rule R112). -/
def payloadLength (op b2 b1 : Byte) : Nat :=
  match op.toNat with
  | 0x23 => b1.toNat
  | 0x30 => b1.toNat
  | 0x32 => b1.toNat
  | 0x33 => b2.toNat
  | _ => 0

/-- The length of a stream's first record, `4 + P` (rules R100, R112), known from its first four bytes; where the
stream has fewer than four bytes, all of it. DESIGN CHOICE (log entry 6), unsafe, for a refused record. -/
def recordLength : List Byte → Nat
  | op :: b2 :: b1 :: _ :: _ => 4 + payloadLength op b2 b1
  | bs => bs.length

/-- A length as its 8-bit field holds it. -/
def lengthByte (data : List Byte) : Byte := BitVec.ofNat 8 data.length

/-- The record of an operation (rules R100 to R109, R111). -/
def encode : Instr → List Byte
  | .onStart flags => [0x10, 0, hiByte flags, loByte flags]
  | .onByte byte => [0x11, 0, 0, byte]
  | .onStop flags => [0x12, 0, hiByte flags, loByte flags]
  | .onError flags => [0x13, 0, hiByte flags, loByte flags]
  | .onTick1ms => [0x14, 0, 0, 0]
  | .respRead => [0x15, 0, 0, 0]
  | .init c => [0x20, 0, 0, if c then 1 else 0]
  | .reset => [0x21, 0, 0, 0]
  | .popMessage => [0x22, 0, 0, 0]
  | .setResponse data => [0x23, 0, lengthByte data, 0] ++ data
  | .getResponse => [0x24, 0, 0, 0]
  | .clearResponse => [0x25, 0, 0, 0]
  | .mWrite a data => [0x30, a, lengthByte data, 0] ++ data
  | .mRead a n => [0x31, a, n, 0]
  | .mWriteRead a tx n => [0x32, a, lengthByte tx, n] ++ tx
  | .devWrite mem data => [0x33, lengthByte data, hiByte mem, loByte mem] ++ data
  | .devRead mem n => [0x34, n, hiByte mem, loByte mem]

/-- The bytes of the record whose header is the low 32 bits of `w`, most significant byte first (rule R100), and
whose payload bytes are the bits of `w` above them, as many as the header asks for. Bits of `w` from `nbits` up
are 0. -/
def recordBytes (nbits w : Nat) : List Byte :=
  let v := w % 2 ^ nbits
  let op : Byte := BitVec.ofNat 8 (v >>> 24)
  let b2 : Byte := BitVec.ofNat 8 (v >>> 16)
  let b1 : Byte := BitVec.ofNat 8 (v >>> 8)
  let b0 : Byte := BitVec.ofNat 8 v
  [op, b2, b1, b0] ++ (List.range (payloadLength op b2 b1)).map (fun k => BitVec.ofNat 8 (v >>> (32 + 8 * k)))

/-- The stream a record belongs to: an opcode of class 0x1 is an interrupt-context event (rule R101), every other
record goes to the foreground stream. -/
def recordAgent (bytes : List Byte) : Agent :=
  match bytes with
  | op :: _ => if op.toNat / 16 = 1 then .irq else .fg
  | [] => .fg

/-- What the decoder reads from a record given as a number, whose bit 0 is bit 0 of the header word. -/
def decodeTableWord (nbits w : Nat) : Option Instr :=
  match decode (recordBytes nbits w) with
  | .ok (i, []) => some i
  | _ => none

end Sys2Proof
end

