-- ==== Sys2Proof/Machine/State.lean ====
section
/-! DEFINITION. The state of the block (10_state.md), as plain data, and the machine right after power-on
(rule R340). The ids ST01 to ST20 are those of rule R43. -/

namespace Sys2Proof.Machine

/-- `S.life` (ST01, rule R32). -/
inductive Life where
  | uninit
  | ready
deriving DecidableEq, Repr

/-- The in-progress frame (ST03, ST04, ST05, rule R33). -/
structure Frame where
  /-- `S.receiving` -/
  receiving : Bool
  /-- `S.frame`, byte `i` being the `i`-th received (rule R75) -/
  bytes : List Byte
  /-- `S.ift`, the `in_frame_ticks` counter of `P_TICKS_WIDTH` bits -/
  ticks : Nat
deriving DecidableEq, Repr

/-- A Bus Message (rule R35). -/
structure Message where
  bytes : List Byte
  length : Nat
  flags : Flags
  ts : Timestamp
deriving DecidableEq, Repr

/-- What a ring slot holds before anything is enqueued in it. DESIGN CHOICE (log entry 17), unsafe: the spec gives
the slot no value, and no operation reads it (rule R34). -/
def Message.blank : Message := { bytes := [], length := 0, flags := 0, ts := 0 }

/-- The message ring buffer (ST06 to ST09, rule R34). -/
structure Ring where
  slots : List Message
  head : Nat
  tail : Nat
  count : Nat
deriving DecidableEq, Repr

/-- The response buffer (ST10 to ST13, rule R37). -/
structure Resp where
  bytes : List Byte
  length : Nat
  cursor : Nat
  pending : Bool
deriving DecidableEq, Repr

/-- The two bus lines (rule R40). -/
inductive Line where
  | scl
  | sda
deriving DecidableEq, Repr

/-- The drive state of a line: released, or driven low (rule R40). -/
inductive Drive where
  | rel
  | low
deriving DecidableEq, Repr

/-- The configuration and drive state of the two lines (ST16, ST17, rule R40). -/
structure Lines where
  cfgScl : LineCfg
  cfgSda : LineCfg
  drvScl : Drive
  drvSda : Drive
deriving DecidableEq, Repr

/-- The four opaque collaborator calls (rules R9, R314). -/
inductive Call where
  | busStop
  | busCreate
  | busStart
  | busRearmSlaveReceive
deriving DecidableEq, Repr

/-- The atomic steps of a master transaction (rules R221, R222, R223, R233). -/
inductive Prim where
  /-- the first step of Begin (rule R222) -/
  | snap
  /-- `Line(l, d)` -/
  | line (l : Line) (d : Drive)
  /-- `Delay()` -/
  | delay
  /-- `Sample()` of the acknowledge bit, in ReadAck (rule R227) -/
  | sampleAck
  /-- `Sample()` of data bit `i`, in ReadBit (rules R229, R230) -/
  | sampleBit (i : Nat)
  /-- the first step of End (rule R223) -/
  | restore
  /-- the first step of End's Rearm: its check of `M.owns`, then `Call(bus_stop)` (rule R182) -/
  | rearm
  /-- one of Rearm's other calls (rule R182) -/
  | call (c : Call)
deriving DecidableEq, Repr

/-- What a transaction does between its Begin and its STOP, one entry at a time: a START, a WriteByte, a ReadByte
(rules R262 to R265). -/
inductive Act where
  | start
  | write (x : Byte)
  | read (last : Bool)
deriving DecidableEq, Repr

/-- Which part of the pseudocode the primitives of `Seq.todo` belong to. -/
inductive Stage where
  /-- Begin -/
  | opening
  /-- one entry of the transaction -/
  | acting (a : Act)
  /-- STOP and End -/
  | closing
  /-- the Delay before probe `k`, between two probes of a ReadyPoll (rule R266) -/
  | pausing (k : Nat) (payloads : List (List Byte))
deriving DecidableEq, Repr

/-- What the running transaction is for, and so what follows its End. The payloads are those of the chunks of a
DEV_WRITE still to be written (rule R268); `k` numbers the probes of a ReadyPoll from 1 (rule R266). -/
inductive Job where
  /-- the one transaction of an M_WRITE (rule R262) -/
  | write
  /-- the one transaction of an M_READ, M_WRITE_READ or DEV_READ (rules R263, R264, R269) -/
  | read
  /-- the write of one chunk -/
  | chunk (payloads : List (List Byte))
  /-- a probe, or the Delay before it -/
  | probe (k : Nat) (payloads : List (List Byte))
deriving DecidableEq, Repr

/-- `S.M.seq` where it has a value (ST19, rules R36, R233): the position of the running master operation inside its
pseudocode, with the values of the pseudocode's variables. DESIGN CHOICE (log entry 13), safe. -/
structure Seq where
  /-- the primitives of this stage not yet performed -/
  todo : List Prim
  stage : Stage
  /-- the rest of the transaction after this stage, unless a NACK ends it -/
  acts : List Act
  /-- `ok`: no WriteByte of the transaction has been NACKed -/
  ok : Bool
  /-- `x` of ReadByte (rule R230) -/
  rx : Byte
  /-- `buf`, the bytes read so far -/
  buf : List Byte
  job : Job
deriving DecidableEq, Repr

/-- The master driver's state (ST14, ST15, ST19, rule R40). -/
structure Master where
  owns : Bool
  /-- the snapshot `(cfg[SCL], cfg[SDA])`, with no value while the master does not own the lines -/
  snap : Option (LineCfg × LineCfg)
  seq : Option Seq
deriving DecidableEq, Repr

/-- An Error Context, as an entry of the error log (rule R39). -/
structure ErrorContext where
  kind : ErrorKind
  flags : Flags
  dropped : Bool
  ts : Timestamp
deriving DecidableEq, Repr

/-- An entry of the call log (rule R41). -/
inductive Event where
  | call (c : Call)
  | line (l : Line) (d : Drive)
  | delay
  | sample (v : Bool)
  | snap
  | restore
deriving DecidableEq, Repr

/-- The reasons of the sticky fault set `S.faults` (rules R41, R354). -/
inductive FaultMark where
  | rearmDuringMaster
deriving DecidableEq, Repr

/-- The reasons of the sticky refusal mark `S.refused` (rules R10, R41; 93_implementation_defined.md §4). -/
inductive RefusalMark where
  | wrongContext
  | notInit
  | decode
deriving DecidableEq, Repr

/-- A value an operation returns to its caller (rule R11). -/
inductive Return where
  /-- POP_MESSAGE (rule R183) -/
  | message (m : Option Message)
  /-- SET_RESPONSE (rule R184) -/
  | accepted (ok : Bool)
  /-- GET_RESPONSE (rule R185) -/
  | response (present : Bool) (bytes : List Byte) (length : Nat)
  /-- RESP_READ (rule R146) -/
  | byte (v : Byte)
  /-- M_WRITE and DEV_WRITE (rules R262, R268) -/
  | done (ok : Bool)
  /-- M_READ, M_WRITE_READ and DEV_READ (rules R263, R264, R269) -/
  | data (ok : Bool) (bytes : List Byte)
deriving DecidableEq, Repr

/-- The observation of a run (ST20, rules R11, R41), each list oldest first. -/
structure Log where
  errlog : List ErrorContext
  calllog : List Event
  /-- a set of fault reasons, with no repeats -/
  faults : List FaultMark
  /-- the first refusal reason -/
  refused : Option RefusalMark
  /-- the values operations have returned (rule R11): the model's own field, DESIGN CHOICE (log entry 14), safe -/
  returns : List Return
deriving DecidableEq, Repr

/-- The inputs of the step relation (rule R44), which the machine consumes: they are the environment's, and stand in
the state because a step is a function of the state alone. DESIGN CHOICE (log entry 1), safe. -/
structure Env where
  /-- the bytes of the FG agent's operation stream not yet issued (rule R100) -/
  fgStream : List Byte
  /-- the bytes of the IRQ agent's operation stream not yet issued -/
  irqStream : List Byte
  /-- the schedule: which agent takes each next step (rule R81) -/
  turns : List Agent
  /-- the draws of `NowMs()` still to come (rule R9) -/
  now : List Timestamp
  /-- the draws of `DevSDA()` still to come (rule R9); `true` is a high level -/
  sda : List Bool
  /-- how many free values have been drawn: the model's own field (log entry 8) -/
  drawn : Nat
deriving DecidableEq, Repr

/-- The state `S` (rule R31), with the configuration it runs under and the inputs it has still to consume. -/
@[ext]
structure State where
  /-- the configuration record (rule R6), which no step writes (rule R44): DESIGN CHOICE (log entry 3), safe -/
  cfg : Params
  life : Life
  /-- `S.cb` (ST02, rule R32) -/
  cb : Bool
  frame : Frame
  ring : Ring
  resp : Resp
  lines : Lines
  master : Master
  /-- `FG.pc` (ST18, rule R36) -/
  fgPc : Nat
  /-- `IRQ.pc` (ST18, rule R36) -/
  irqPc : Nat
  /-- the context that is executing (rule R312): DEDUCED (log entry 25), safe -/
  ctx : Agent
  log : Log
  env : Env
deriving DecidableEq, Repr

/-- Why the machine stops with a fault. The sticky fault bits of rule R10 are not these: they are marks in
`Log.faults`, and the machine goes on (log entry 5). -/
inductive Fault where
  /-- Raised by `runPrim` on a `Line` or `Sample` step while `M.owns` is false: rule R221 admits neither there.
  DEDUCED, safe: no state that meets the invariant raises it (log entry 15). -/
  | lineNotOwned
  /-- Raised by `runPrim` on the first step of End while `M.snap` has no value: there is nothing to restore
  (rules R40, R223). DEDUCED, safe: no state that meets the invariant raises it (log entry 15). -/
  | restoreWithoutSnapshot
deriving DecidableEq, Repr

/-- Why an instruction is given no meaning. The refusals of rule R10 are not these: they are the mark `Log.refused`,
and the machine goes on (log entry 5). -/
inductive Refusal where
  /-- Raised by `exec` on an instruction the model has not reached. Safe. No instruction is left so. -/
  | notModelled (mnemonic : String)
  /-- Raised by a meaning given more payload bytes than a length field can name: the record cannot be written, and
  decision D35 refuses it by name. DEDUCED (log entry 23), safe: no decoded instruction raises it. -/
  | payloadTooLong
deriving DecidableEq, Repr

/-- Power-on (rule R340): the machine before INIT, at the reference configuration (rule R12), with no operation
stream and no draw given. DESIGN CHOICE (log entry 4), unsafe: the engine fields `cb`,
`receiving`, `frame`, `ift`, the ring and the response have no value in the spec before INIT, and stand here at the
values RESET gives them, `cb` at false. -/
def State.reset : State where
  cfg := Params.reference
  life := .uninit
  cb := false
  frame := { receiving := false, bytes := [], ticks := 0 }
  ring := { slots := List.replicate Params.reference.ringCapacity Message.blank, head := 0, tail := 0, count := 0 }
  resp := { bytes := [], length := 0, cursor := 0, pending := false }
  lines := { cfgScl := Config.cfg0, cfgSda := Config.cfg0, drvScl := .rel, drvSda := .rel }
  master := { owns := false, snap := none, seq := none }
  fgPc := 0
  irqPc := 0
  ctx := .fg
  log := { errlog := [], calllog := [], faults := [], refused := none, returns := [] }
  env := { fgStream := [], irqStream := [], turns := [], now := [], sda := [], drawn := 0 }

end Sys2Proof.Machine
end

