-- ==== Sys2Proof/Machine/Ops.lean ====
section
/-! DEFINITION. The named operations over the state: draws from the environment, the marks of rule R10, the logs of
rule R41, reporting an error and the resets that follow it (the part traps play in this block, rules R301, R302), the
ring, and the entry and end of an operation in its context. -/

namespace Sys2Proof.Machine

/-! ### Draws (rule R9; log entries 8 and 9) -/

/-- A free value has been drawn: the next one is a fresh one. -/
def State.countDraw (s : State) : State := { s with env := { s.env with drawn := s.env.drawn + 1 } }

/-- A timestamp cut to `P_TIMESTAMP_WIDTH` bits (rule R6, decision D44). DESIGN CHOICE (log entry 19), safe. -/
def cutTimestamp (width : Nat) (ts : Timestamp) : Timestamp := BitVec.ofNat 32 (ts.toNat % 2 ^ width)

/-- `NowMs()`: the environment's next draw, or a free value, at the width of a timestamp. -/
def State.drawNow (s : State) : Timestamp × State :=
  match s.env.now with
  | ts :: rest => (cutTimestamp s.cfg.timestampWidth ts, { s with env := { s.env with now := rest } })
  | [] => (cutTimestamp s.cfg.timestampWidth (Config.freeNow s.env.drawn), s.countDraw)

/-- `DevSDA()`: the bus device's next draw, or a free value. -/
def State.drawSda (s : State) : Bool × State :=
  match s.env.sda with
  | v :: rest => (v, { s with env := { s.env with sda := rest } })
  | [] => (Config.freeSda s.env.drawn, s.countDraw)

/-- `Draw(Bool)` (rule R184): a free value. -/
def State.drawBool (s : State) : Bool × State := (Config.freeBool s.env.drawn, s.countDraw)

/-- The bytes of a failed read, `any` (rule R270): a free value. -/
def State.drawBytes (s : State) : List Byte × State := (Config.freeBytes s.env.drawn, s.countDraw)

/-! ### Marks and logs -/

/-- `raise Fault(r)`: `faults` is a set, and no bit of it is ever cleared (rules R10, R41). DEDUCED (log entry 5). -/
def State.raiseFault (s : State) (r : FaultMark) : State :=
  { s with log := { s.log with faults := if r ∈ s.log.faults then s.log.faults else s.log.faults ++ [r] } }

/-- `refuse(r)`: the first reason is kept (rules R10, R41). DEDUCED (log entry 5). -/
def State.refuse (s : State) (r : RefusalMark) : State :=
  { s with log := { s.log with refused := match s.log.refused with
                                          | none => some r
                                          | some first => some first } }

/-- Append an event to the call log. -/
def State.logEvent (s : State) (e : Event) : State :=
  { s with log := { s.log with calllog := s.log.calllog ++ [e] } }

/-- `Call(c)`: recorded, with no other effect in the model (decision D40). -/
def State.logCall (s : State) (c : Call) : State := s.logEvent (.call c)

/-- A value is returned to the operation's caller (rule R11). -/
def State.give (s : State) (r : Return) : State :=
  { s with log := { s.log with returns := s.log.returns ++ [r] } }

/-! ### Errors: the report, and the resets that follow one -/

/-- `Report(kind, flags, dropped, ts)` (rule R302): the Error Context reaches the log if a callback is registered. The
callback itself has no step: DEDUCED (log entry 21), unsafe. -/
def State.report (s : State) (kind : ErrorKind) (flags : Flags) (dropped : Bool) (ts : Timestamp) : State :=
  if s.cb then
    { s with log := { s.log with errlog := s.log.errlog ++ [{ kind, flags, dropped, ts }] } }
  else s

/-- The check that opens `Rearm()` (rules R182, R354). -/
def State.rearmCheck (s : State) : State :=
  if s.master.owns then s.raiseFault .rearmDuringMaster else s

/-- `Rearm()` (rule R182), as one step of an engine operation. -/
def State.rearm (s : State) : State :=
  ((((s.rearmCheck).logCall .busStop).logCall .busCreate).logCall .busStart).logCall .busRearmSlaveReceive

/-- No frame in progress (rule R33). -/
def State.clearFrame (s : State) : State := { s with frame := { receiving := false, bytes := [], ticks := 0 } }

/-- The ring emptied: its indices and its count at 0 (decision D48). What the slots hold is not observable, and is
kept: DESIGN CHOICE (log entry 17), unsafe. -/
def State.clearRing (s : State) : State := { s with ring := { s.ring with head := 0, tail := 0, count := 0 } }

/-- `ClearBody()` (rule R186). -/
def State.clearResponse (s : State) : State :=
  { s with resp := { bytes := [], length := 0, cursor := 0, pending := false } }

/-- `ResetBody()` (rule R181). -/
def State.resetBody (s : State) : State := ((s.rearm).clearFrame).clearRing.clearResponse

/-- `ForcedReset()` (rule R147). -/
def State.forcedReset (s : State) : State :=
  match s.cfg.forcedResetScope with
  | .full => ((s.rearm).clearFrame).clearRing.clearResponse
  | .frameOnly => (s.rearm).clearFrame

/-- TAKING AN ERROR, the operation every forced-reset path shares: the report, with the state it names read before the
reset, and then the reset (rules R301, R310; decision D14). -/
def State.takeError (s : State) (kind : ErrorKind) (flags : Flags) (dropped : Bool) : State :=
  (s.drawNow.2.report kind flags dropped s.drawNow.1).forcedReset

/-! ### The ring -/

/-- `Enqueue(msg)` (rule R149): write slot, advance head, increment count. -/
def State.enqueue (s : State) (msg : Message) : State :=
  { s with ring := { s.ring with
      slots := s.ring.slots.set s.ring.head msg
      head := (s.ring.head + 1) % s.cfg.ringCapacity
      count := s.ring.count + 1 } }

/-- The message at the tail (rule R183). DESIGN CHOICE (log entry 18), safe: the default is read in no state that meets
the invariant. -/
def State.oldest (s : State) : Message := s.ring.slots.getD s.ring.tail Message.blank

/-- The slot at the tail is freed (rule R183). -/
def State.dropOldest (s : State) : State :=
  { s with ring := { s.ring with
      tail := (s.ring.tail + 1) % s.cfg.ringCapacity
      count := s.ring.count - 1 } }

/-! ### Contexts: entering one, and the end of an operation -/

/-- The agent given the step is the context that executes (rule R312). -/
def State.enter (s : State) (a : Agent) : State := { s with ctx := a }

/-- The end of an operation: the position of its agent advances by 1 (rule R36), and the foreground is the context
again, as it is after every IRQ operation (rule R312). -/
def State.retire (s : State) : State :=
  match s.ctx with
  | .irq => { s with irqPc := s.irqPc + 1, ctx := .fg }
  | .fg => { s with fgPc := s.fgPc + 1, ctx := .fg }

/-- A refused operation is marked, and consumed with no other effect (rules R10, R36). -/
def State.refuseOp (s : State) (r : RefusalMark) : State := (s.refuse r).retire

/-- The reason recorded for an operation refused on both counts: a free value. DESIGN CHOICE (log entry 7), safe. -/
def State.refuseEither (s : State) : State :=
  s.countDraw.refuseOp (if Config.freeWrongContextFirst s.env.drawn then .wrongContext else .notInit)

/-- The admission of an operation of agent `a` (rules R148, R187, R232): only in its own context, and, where it needs
INIT, only once `life` is `Ready`. -/
def whenAdmitted (a : Agent) (needsInit : Bool) (s : State) (body : State → Host.Outcome State Fault Refusal) :
    Host.Outcome State Fault Refusal :=
  if s.ctx = a then
    if needsInit = true ∧ s.life = .uninit then .next (s.refuseOp .notInit) else body s
  else if needsInit = true ∧ s.life = .uninit then .next s.refuseEither
  else .next (s.refuseOp .wrongContext)

end Sys2Proof.Machine
end

