-- ==== Sys2Proof/Machine/Flags.lean ====
section
/-! DEFINITION. Reading the raw hardware status word (rules R117, R144), the saturating tick counter (rules R33, R145),
and the codes of the error kinds (rule R300). -/

namespace Sys2Proof.Machine

/-- `flags[b]`, a bit of the raw status word at a configured position (rule R117): one of the `P_FLAGS_WIDTH` bits the
word has. A position past them is no bit of the word, and is never set: DESIGN CHOICE (log entry 19), safe. -/
def flagSet (p : Params) (flags : Flags) (b : Nat) : Bool := decide (b < p.flagsWidth) && flags.getLsbD b

/-- The kind a NACK flag reports (decision D4). -/
def nackKindOf : NackKind → ErrorKind
  | .nack => .nack
  | .frame => .frame

/-- `Classify(flags)` (rule R144): the highest-priority named bit that is set. -/
def classify (p : Params) (flags : Flags) : ErrorKind :=
  if flagSet p flags p.bitBusErr then .busError
  else if flagSet p flags p.bitArbLost then .arbitrationLost
  else if flagSet p flags p.bitOvr then .overrun
  else if flagSet p flags p.bitNack then nackKindOf p.nackKind
  else if flagSet p flags p.bitLineStuck then .lineStuck
  else if flagSet p flags p.bitFrameFmt then .frame
  else p.emptyFlagsKind

/-- The largest value of a counter of `width` bits: 0xFFFF at `P_TICKS_WIDTH` = 16. -/
def counterMax (width : Nat) : Nat := 2 ^ width - 1

/-- `sat16` of rule R8, at the width `P_TICKS_WIDTH`. DEDUCED (log entry 26), safe. -/
def saturate (width v : Nat) : Nat := min v (counterMax width)

/-- The code of an error kind (rule R300, decision D42). -/
def kindCode : ErrorKind → Nat
  | .busError => 1
  | .arbitrationLost => 2
  | .overrun => 3
  | .nack => 4
  | .lineStuck => 5
  | .frame => 6
  | .timeout => 7

end Sys2Proof.Machine
end

