-- ==== Sys2Proof/Machine/Operands.lean ====
section
/-! DEFINITION. What the master makes of its operands: the 7-bit address and the address byte (rules R260, R114), the
2-byte device address (rules R73, R116), the bits of a byte (rule R74) and the chunks of a paged write (rule R267). -/

namespace Sys2Proof.Machine

/-- `Norm(A)` (rule R260). -/
def normAddr (a : Byte) : BusAddr := (if 0x7F < a.toNat then a >>> 1 else a).truncate 7

/-- The address byte, `(a7 << 1) | rw` (rule R114). -/
def addressByte (a : BusAddr) (rw : Bool) : Byte := (a.zeroExtend 8 <<< 1) ||| (if rw then 1 else 0)

/-- The address byte of a write phase. -/
def addressW (a : BusAddr) : Byte := addressByte a false

/-- The address byte of a read phase. -/
def addressR (a : BusAddr) : Byte := addressByte a true

/-- A device memory address on the wire: big-endian (rule R73). -/
def addressPrefix (m : DevAddr) : List Byte := [hiByte m, loByte m]

/-- `x[i] <- v`, for a byte read bit by bit from 0 (rule R230). -/
def putBit (x : Byte) (i : Nat) (v : Bool) : Byte := if v then x ||| (1#8 <<< i) else x

/-- One chunk of a paged write: its device address, and its place in the payload (rule R267). -/
structure Chunk where
  m : DevAddr
  off : Nat
  n : Nat
deriving DecidableEq, Repr

/-- The loop of `Chunks(mem, L)` from `off` on (rule R267). Each turn of the loop takes at least one byte, so `fuel`
turns are enough where `fuel` is the number of bytes left (log entry 22). -/
def chunksFrom (pageSize : Nat) (mem : DevAddr) (len : Nat) : Nat → Nat → List Chunk
  | 0, _ => []
  | fuel + 1, off =>
    if off < len then
      let m := BitVec.ofNat 16 (mem.toNat + off)
      let room := pageSize - m.toNat % pageSize
      let n := min room (len - off)
      { m, off, n } :: chunksFrom pageSize mem len fuel (off + n)
    else []

/-- `Chunks(mem, L)` (rule R267). -/
def chunks (pageSize : Nat) (mem : DevAddr) (len : Nat) : List Chunk := chunksFrom pageSize mem len len 0

/-- The bus payload of one chunk (rules R116, R268). -/
def chunkPayload (data : List Byte) (c : Chunk) : List Byte :=
  addressPrefix c.m ++ (data.drop c.off).take c.n

/-- The bus payloads of a paged write, chunk by chunk (rule R268). -/
def chunkPayloads (pageSize : Nat) (mem : DevAddr) (data : List Byte) : List (List Byte) :=
  (chunks pageSize mem data.length).map (chunkPayload data)

end Sys2Proof.Machine
end

