-- ==== Sys2Proof/Machine/MasterBus.lean ====
section
/-! DEFINITION. The master's bus primitives, one atomic step each (rule R221), and the procedures of 42_master_bus.md as
the sequences of primitives they perform. -/

namespace Sys2Proof.Machine

/-! ### The effect of one primitive -/

/-- `S.L.drv[l] <- d`. -/
def Lines.drive (ls : Lines) (l : Line) (d : Drive) : Lines :=
  match l with
  | .scl => { ls with drvScl := d }
  | .sda => { ls with drvSda := d }

/-- `Line(l, d)` (rule R221). -/
def State.driveLine (s : State) (l : Line) (d : Drive) : State :=
  ({ s with lines := s.lines.drive l d }).logEvent (.line l d)

/-- The level of SDA (rule R221): a line the master drives low reads 0, a released one reads what the bus device drives. -/
def State.readSda (s : State) : Bool × State :=
  match s.lines.drvSda with
  | .low => (false, s)
  | .rel => s.drawSda

/-- `Sample()` (rule R221). -/
def State.sample (s : State) : Bool × State := (s.readSda.1, s.readSda.2.logEvent (.sample s.readSda.1))

/-- The first step of Begin (rule R222): the snapshot, and the lines under the master's control. -/
def State.takeLines (s : State) : State :=
  ({ s with
      master := { s.master with snap := some (s.lines.cfgScl, s.lines.cfgSda), owns := true }
      lines := { s.lines with cfgScl := Config.mcfg, cfgSda := Config.mcfg } }).logEvent .snap

/-- The first step of End (rule R223): the exact prior configuration is restored. -/
def State.giveBackLines (s : State) (cfgScl cfgSda : LineCfg) : State :=
  ({ s with
      master := { s.master with snap := none, owns := false }
      lines := { s.lines with cfgScl := cfgScl, cfgSda := cfgSda } }).logEvent .restore

/-- One primitive, on the variables of the running operation and the state. `Line` and `Sample` are admitted only
while the master owns the lines (rule R221; DEDUCED, log entry 15, safe), and a Delay has no duration (log entry 27). -/
def runPrim (p : Prim) (q : Seq) (s : State) : Except Fault (Seq × State) :=
  match p with
  | .snap => .ok (q, s.takeLines)
  | .line l d => if s.master.owns then .ok (q, s.driveLine l d) else .error .lineNotOwned
  | .delay => .ok (q, s.logEvent .delay)
  | .sampleAck =>
    if s.master.owns then .ok ({ q with ok := !s.sample.1 }, s.sample.2) else .error .lineNotOwned
  | .sampleBit i =>
    if s.master.owns then .ok ({ q with rx := putBit q.rx i s.sample.1 }, s.sample.2) else .error .lineNotOwned
  | .restore =>
    match s.master.snap with
    | some (cfgScl, cfgSda) => .ok (q, s.giveBackLines cfgScl cfgSda)
    | none => .error .restoreWithoutSnapshot
  | .rearm => .ok (q, s.rearmCheck.logCall .busStop)
  | .call c => .ok (q, s.logCall c)

/-! ### The procedures, as sequences of primitives -/

/-- `Line(l, d); Delay()`: every line change is followed by one delay (decision D25). -/
def edge (l : Line) (d : Drive) : List Prim := [.line l d, .delay]

/-- `Begin()` (rule R222). -/
def beginPrims : List Prim := .snap :: (edge .sda .rel ++ edge .scl .rel)

/-- `End()` (rule R223), with the four calls of its Rearm (rule R182), each a step of its own. DEDUCED (log entry 12),
safe. -/
def endPrims : List Prim := [.restore, .rearm, .call .busCreate, .call .busStart, .call .busRearmSlaveReceive]

/-- `START()` (rule R224). -/
def startPrims : List Prim := edge .sda .rel ++ edge .scl .rel ++ edge .sda .low ++ edge .scl .low

/-- `STOP()` (rule R225). -/
def stopPrims : List Prim := edge .sda .low ++ edge .scl .rel ++ edge .sda .rel

/-- A 1 is sent by releasing SDA (rule R226). -/
def driveOf (b : Bool) : Drive := if b then .rel else .low

/-- `WriteBit(b)` (rule R226). -/
def writeBitPrims (b : Bool) : List Prim := edge .sda (driveOf b) ++ edge .scl .rel ++ edge .scl .low

/-- `ReadAck()` (rule R227). -/
def readAckPrims : List Prim := edge .sda .rel ++ edge .scl .rel ++ [.sampleAck] ++ edge .scl .low

/-- The bit numbers of a byte in the order of the wire, most significant first (rule R74). -/
def msbFirst : List Nat := [7, 6, 5, 4, 3, 2, 1, 0]

/-- `WriteByte(x)` (rule R228). -/
def writeBytePrims (x : Byte) : List Prim :=
  msbFirst.flatMap (fun i => writeBitPrims (x.getLsbD i)) ++ readAckPrims

/-- `x[i] <- ReadBit()` (rules R229, R230). -/
def readBitPrims (i : Nat) : List Prim := edge .scl .rel ++ [.sampleBit i] ++ edge .scl .low

/-- `SendAck(ack)` (rule R231): ACK drives SDA low, NACK releases it. -/
def sendAckPrims (ack : Bool) : List Prim := edge .sda (driveOf (!ack)) ++ edge .scl .rel ++ edge .scl .low

/-- `ReadByte(last)` (rule R230). -/
def readBytePrims (last : Bool) : List Prim :=
  edge .sda .rel ++ msbFirst.flatMap readBitPrims ++ sendAckPrims (!last)

/-- The primitives of one entry of a transaction. -/
def actPrims : Act → List Prim
  | .start => startPrims
  | .write x => writeBytePrims x
  | .read last => readBytePrims last

end Sys2Proof.Machine
end

