-- ==== Sys2Proof/Machine/MasterSeq.lean ====
section
/-! DEFINITION. The sequencer of the master operations: how a transaction and a job go on from one atomic step to the
next (rules R233, R265, R266, R268), and the running of a master operation alone. -/

namespace Sys2Proof.Machine

/-! ### Transactions, as the entries between Begin and STOP -/

/-- The WriteBytes of a write phase (rule R262). -/
def writeActs (bytes : List Byte) : List Act := bytes.map .write

/-- The ReadBytes of a read phase of `n` bytes: NACK after the last, ACK after every other (rules R115, R263). -/
def readActs (n : Nat) : List Act := (List.range n).map (fun j => .read (j + 1 == n))

/-- M_WRITE past its check (rule R262), and the write of a chunk (rule R268). -/
def writeTxn (a : BusAddr) (data : List Byte) : List Act := .start :: writeActs (addressW a :: data)

/-- M_READ past its check (rule R263). -/
def readTxn (a : BusAddr) (n : Nat) : List Act := .start :: .write (addressR a) :: readActs n

/-- `WriteReadBody(a, tx, Lrx)` (rule R264): a repeated start, and no stop, between the phases. -/
def writeReadTxn (a : BusAddr) (tx : List Byte) (n : Nat) : List Act :=
  .start :: writeActs (addressW a :: tx) ++ .start :: .write (addressR a) :: readActs n

/-- `Probe(a)` (rule R265): the address byte alone. -/
def probeTxn (a : BusAddr) : List Act := [.start, .write (addressW a)]

/-- A transaction at its Begin. -/
def openTxn (job : Job) (acts : List Act) : Seq :=
  { todo := beginPrims, stage := .opening, acts, ok := true, rx := 0, buf := [], job }

/-! ### From one stage to the next -/

/-- STOP and End come next: on every path past the argument check (rules R262 to R265, decision D27). -/
def closeTxn (q : Seq) : Seq := { q with todo := stopPrims ++ endPrims, stage := .closing, acts := [] }

/-- The next entry of the transaction, or its close where none is left. ReadByte starts from `x = 0` (rule R230). -/
def nextAct (q : Seq) : Seq :=
  match q.acts with
  | [] => closeTxn q
  | a :: rest => { q with todo := actPrims a, stage := .acting a, acts := rest, rx := 0 }

/-- The master operation returns its result and ends (rule R270). -/
def State.finish (s : State) (r : Return) : State :=
  (({ s with master := { s.master with seq := none } }).give r).retire

/-- The running operation goes on at `q`. -/
def State.goOn (s : State) (q : Seq) : State := { s with master := { s.master with seq := some q } }

/-- A read's result: the bytes read, or any bytes where it failed (rule R270). -/
def State.finishRead (s : State) (ok : Bool) (buf : List Byte) : State :=
  if ok then s.finish (.data true buf)
  else s.drawBytes.2.finish (.data false s.drawBytes.1)

/-- The next chunk of a DEV_WRITE, or its end: success where no chunk is left (rule R268). -/
def State.nextChunk (s : State) (payloads : List (List Byte)) : State :=
  match payloads with
  | [] => s.finish (.done true)
  | p :: rest => s.goOn (openTxn (.chunk rest) (writeTxn s.cfg.eepromAddr p))

/-- Probe `k` of a ReadyPoll, or its end where the attempt ceiling is passed (rule R266). -/
def State.startProbe (s : State) (k : Nat) (payloads : List (List Byte)) : State :=
  if k ≤ s.cfg.probeMax then s.goOn (openTxn (.probe k payloads) (probeTxn s.cfg.eepromAddr))
  else s.finish (.done false)

/-- The Delay before probe `k` (rule R266). -/
def pause (k : Nat) (payloads : List (List Byte)) : Seq :=
  { todo := [.delay], stage := .pausing k payloads, acts := [], ok := true, rx := 0, buf := [], job := .probe k payloads }

/-- What follows the End of a transaction. -/
def State.afterTxn (s : State) (q : Seq) : State :=
  match q.job with
  | .write => s.finish (.done q.ok)
  | .read => s.finishRead q.ok q.buf
  | .chunk payloads => if q.ok then s.startProbe 1 payloads else s.finish (.done false)
  | .probe k payloads =>
    if q.ok then s.nextChunk payloads
    else if k < s.cfg.probeMax then s.goOn (pause (k + 1) payloads)
    else s.finish (.done false)

/-- What follows the last primitive of a stage. A NACK of a WriteByte ends the transaction (rules R262 to R264). -/
def State.settle (s : State) (q : Seq) : State :=
  match q.stage with
  | .opening => s.goOn (nextAct q)
  | .acting .start => s.goOn (nextAct q)
  | .acting (.write _) => s.goOn (if q.ok then nextAct q else closeTxn q)
  | .acting (.read _) => s.goOn (nextAct { q with buf := q.buf ++ [q.rx] })
  | .closing => s.afterTxn q
  | .pausing k payloads => s.startProbe k payloads

/-! ### One atomic step, and a run of them -/

/-- One atomic step of the running master operation (rule R233): the next primitive, and, where it was the last of its
stage, the way on. -/
def masterStep (q : Seq) (s : State) : Host.Outcome State Fault Refusal :=
  match q.todo with
  | [] => .next (s.settle q)
  | p :: rest =>
    match runPrim p { q with todo := rest } s with
    | .error f => .fault f
    | .ok (q', s') =>
      match rest with
      | [] => .next (s'.settle q')
      | _ :: _ => .next (s'.goOn q')

/-- At most `fuel` atomic steps of the running master operation, no other agent's step falling between them. -/
def runMaster : Nat → State → Host.Outcome State Fault Refusal
  | 0, s => .next s
  | fuel + 1, s =>
    match s.master.seq with
    | none => .next s
    | some q =>
      match masterStep q s with
      | .next s' => runMaster fuel s'
      | .fault f => .fault f
      | .refused r => .refused r

end Sys2Proof.Machine
end

