-- ==== Sys2Proof/Machine/MasterTxn.lean ====
section
/-! DEFINITION. The five master operations (43_master_transactions.md). A meaning makes the argument check of rule R261 and
the first atomic step of the operation; `masterStep` performs every later one, when the foreground agent next has a step. DEDUCED (log
entry 12), safe. -/

namespace Sys2Proof.Machine

/-- M_WRITE (rule R262). -/
def execMWrite (a : Byte) (data : List Byte) (s : State) : Host.Outcome State Fault Refusal :=
  whenAdmitted .fg false s fun s =>
    if !payloadFits data then .refused .payloadTooLong
    else if data.length = 0 then .next (s.finish (.done false))
    else masterStep (openTxn .write (writeTxn (normAddr a) data)) s

/-- M_READ (rule R263). -/
def execMRead (a n : Byte) (s : State) : Host.Outcome State Fault Refusal :=
  whenAdmitted .fg false s fun s =>
    if n.toNat = 0 then .next (s.finishRead false [])
    else masterStep (openTxn .read (readTxn (normAddr a) n.toNat)) s

/-- M_WRITE_READ (rule R264). -/
def execMWriteRead (a : Byte) (tx : List Byte) (n : Byte) (s : State) : Host.Outcome State Fault Refusal :=
  whenAdmitted .fg false s fun s =>
    if !payloadFits tx then .refused .payloadTooLong
    else if tx.length = 0 ∨ n.toNat = 0 then .next (s.finishRead false [])
    else masterStep (openTxn .read (writeReadTxn (normAddr a) tx n.toNat)) s

/-- DEV_WRITE (rule R268): the chunks in order, each followed by ready-polling. -/
def execDevWrite (mem : DevAddr) (data : List Byte) (s : State) : Host.Outcome State Fault Refusal :=
  whenAdmitted .fg false s fun s =>
    if !payloadFits data then .refused .payloadTooLong
    else if data.length = 0 then .next (s.finish (.done false))
    else
      match chunkPayloads s.cfg.pageSize mem data with
      | [] => .next (s.finish (.done true))
      | p :: rest => masterStep (openTxn (.chunk rest) (writeTxn s.cfg.eepromAddr p)) s

/-- DEV_READ (rule R269): one WriteReadBody, with the device address as its write phase. -/
def execDevRead (mem : DevAddr) (n : Byte) (s : State) : Host.Outcome State Fault Refusal :=
  whenAdmitted .fg false s fun s =>
    if n.toNat = 0 then .next (s.finishRead false [])
    else masterStep (openTxn .read (writeReadTxn s.cfg.eepromAddr (addressPrefix mem) n.toNat)) s

end Sys2Proof.Machine
end

