-- ==== Sys2Proof/Machine/SlaveApi.lean ====
section
/-! DEFINITION. The six foreground operations of the slave engine (41_slave_api.md). -/

namespace Sys2Proof.Machine

/-- INIT (rule R180): the registration, and then RESET; admitted before and after INIT. -/
def execInit (c : Bool) (s : State) : Host.Outcome State Fault Refusal :=
  whenAdmitted .fg false s fun s =>
    .next (({ s with cb := c, life := .ready }).resetBody).retire

/-- RESET (rule R181). -/
def execReset (s : State) : Host.Outcome State Fault Refusal :=
  whenAdmitted .fg true s fun s => .next s.resetBody.retire

/-- POP_MESSAGE (rule R183). -/
def execPopMessage (s : State) : Host.Outcome State Fault Refusal :=
  whenAdmitted .fg true s fun s =>
    if s.ring.count = 0 then .next (s.give (.message none)).retire
    else
      let popped := if s.cfg.popClearsResponse then s.dropOldest.clearResponse else s.dropOldest
      .next (popped.give (.message (some s.oldest))).retire

/-- SET_RESPONSE (rule R184): a payload over the encoding's limit cannot be issued (decision D35). -/
def execSetResponse (data : List Byte) (s : State) : Host.Outcome State Fault Refusal :=
  whenAdmitted .fg true s fun s =>
    if !payloadFits data then .refused .payloadTooLong
    else if data.length = 0 then
      .next (s.clearResponse.drawBool.2.give (.accepted s.clearResponse.drawBool.1)).retire
    else if s.cfg.respMax < data.length then .next (s.give (.accepted false)).retire
    else
      .next (({ s with resp := { bytes := data, length := data.length, cursor := 0, pending := true } }).give
        (.accepted true)).retire

/-- GET_RESPONSE (rule R185): the whole response from index 0, whatever the cursor is (decision D18). -/
def execGetResponse (s : State) : Host.Outcome State Fault Refusal :=
  whenAdmitted .fg true s fun s =>
    if s.resp.pending then .next (s.give (.response true s.resp.bytes s.resp.length)).retire
    else .next (s.give (.response false [] 0)).retire

/-- CLEAR_RESPONSE (rule R186). -/
def execClearResponse (s : State) : Host.Outcome State Fault Refusal :=
  whenAdmitted .fg true s fun s => .next s.clearResponse.retire

end Sys2Proof.Machine
end

