-- ==== Sys2Proof/Machine/SlaveEvents.lean ====
section
/-! DEFINITION. The six interrupt-context operations of the slave engine (40_slave_events.md). -/

namespace Sys2Proof.Machine

/-- ON_START (rule R140): a new frame, with what was gathered of the one before discarded. -/
def execOnStart (_flags : Flags) (s : State) : Host.Outcome State Fault Refusal :=
  whenAdmitted .irq true s fun s =>
    .next { s with frame := { receiving := true, bytes := [], ticks := 0 } }.retire

/-- ON_BYTE (rule R141). -/
def execOnByte (byte : Byte) (s : State) : Host.Outcome State Fault Refusal :=
  whenAdmitted .irq true s fun s =>
    if !s.frame.receiving then .next s.retire
    else if s.frame.bytes.length < s.cfg.frameMax then
      .next { s with frame := { s.frame with bytes := s.frame.bytes ++ [byte], ticks := 0 } }.retire
    else .next (s.takeError .overrun 0 true).retire

/-- The frame as a message (rule R142): a copy of its bytes, stamped with the stop's flags and time. -/
def messageOf (f : Frame) (flags : Flags) (ts : Timestamp) : Message :=
  { bytes := f.bytes, length := f.bytes.length, flags, ts }

/-- What ON_STOP does with a finished frame's message, once the frame is cleared (rule R142). -/
def State.acceptMessage (s : State) (msg : Message) : State :=
  if msg.length = 0 ∧ s.cfg.enqueueEmpty = false then s
  else if s.cfg.ringCapacity ≤ s.ring.count then
    if s.cfg.stopOverrunRearm then (s.report .overrun msg.flags true msg.ts).rearm
    else s.report .overrun msg.flags true msg.ts
  else s.enqueue msg

/-- ON_STOP (rule R142): one draw, whatever follows. -/
def execOnStop (flags : Flags) (s : State) : Host.Outcome State Fault Refusal :=
  whenAdmitted .irq true s fun s =>
    if !s.frame.receiving then .next (s.drawNow.2.report .frame flags false s.drawNow.1).retire
    else .next (s.drawNow.2.clearFrame.acceptMessage (messageOf s.frame flags s.drawNow.1)).retire

/-- ON_ERROR (rule R143). -/
def execOnError (flags : Flags) (s : State) : Host.Outcome State Fault Refusal :=
  whenAdmitted .irq true s fun s =>
    .next (s.takeError (classify s.cfg flags) flags s.frame.receiving).retire

/-- ON_TICK_1MS (rule R145). -/
def execOnTick1ms (s : State) : Host.Outcome State Fault Refusal :=
  whenAdmitted .irq true s fun s =>
    if !s.frame.receiving then .next s.retire
    else
      let counted := { s with frame := { s.frame with ticks := saturate s.cfg.ticksWidth (s.frame.ticks + 1) } }
      if s.cfg.slaveTimeout ≤ counted.frame.ticks then .next (counted.takeError .timeout 0 true).retire
      else .next counted.retire

/-- RESP_READ (rule R146). -/
def execRespRead (s : State) : Host.Outcome State Fault Refusal :=
  whenAdmitted .irq true s fun s =>
    if s.resp.pending ∧ s.resp.cursor < s.resp.length then
      .next (({ s with resp := { s.resp with cursor := s.resp.cursor + 1 } }).give
        (.byte (s.resp.bytes.getD s.resp.cursor s.cfg.respFill))).retire
    else .next (s.give (.byte s.cfg.respFill)).retire

end Sys2Proof.Machine
end

