-- ==== Sys2Proof/Machine/Dispatch.lean ====
section
/-! DEFINITION. The meaning of every operation, one arm each. -/

namespace Sys2Proof.Machine

/-- An operation issued by the agent whose context is `s.ctx` (rules R111, R312). -/
def exec (i : Instr) (s : State) : Host.Outcome State Fault Refusal :=
  match i with
  -- interrupt-context operations
  | .onStart flags => Sys2Proof.Machine.execOnStart flags s
  | .onByte byte => Sys2Proof.Machine.execOnByte byte s
  | .onStop flags => Sys2Proof.Machine.execOnStop flags s
  | .onError flags => Sys2Proof.Machine.execOnError flags s
  | .onTick1ms => Sys2Proof.Machine.execOnTick1ms s
  | .respRead => Sys2Proof.Machine.execRespRead s
  -- foreground operations of the slave engine
  | .init c => Sys2Proof.Machine.execInit c s
  | .reset => Sys2Proof.Machine.execReset s
  | .popMessage => Sys2Proof.Machine.execPopMessage s
  | .setResponse data => Sys2Proof.Machine.execSetResponse data s
  | .getResponse => Sys2Proof.Machine.execGetResponse s
  | .clearResponse => Sys2Proof.Machine.execClearResponse s
  -- master operations
  | .mWrite a data => Sys2Proof.Machine.execMWrite a data s
  | .mRead a n => Sys2Proof.Machine.execMRead a n s
  | .mWriteRead a tx n => Sys2Proof.Machine.execMWriteRead a tx n s
  | .devWrite mem data => Sys2Proof.Machine.execDevWrite mem data s
  | .devRead mem n => Sys2Proof.Machine.execDevRead mem n s

end Sys2Proof.Machine
end

