-- ==== Sys2Proof/Machine/Fetch.lean ====
section
/-! DEFINITION. Which agent takes the next step (rules R81, R233) and what it does with it: issue the next operation of
its stream (rules R36, R100), go on with the running master operation, or find a record that is refused (rule R110). -/

namespace Sys2Proof.Machine

/-- An agent's operation stream. -/
def State.stream (s : State) (a : Agent) : List Byte :=
  match a with
  | .fg => s.env.fgStream
  | .irq => s.env.irqStream

/-- An agent's operation stream, set to what of it is still to be issued. -/
def State.setStream (s : State) (a : Agent) (bytes : List Byte) : State :=
  match a with
  | .fg => { s with env := { s.env with fgStream := bytes } }
  | .irq => { s with env := { s.env with irqStream := bytes } }

/-- The foreground has a step: a master operation is running, or its stream holds an operation. -/
def State.fgReady (s : State) : Bool := s.master.seq.isSome || !s.env.fgStream.isEmpty

/-- The interrupt context has a step: its stream holds an operation. -/
def State.irqReady (s : State) : Bool := !s.env.irqStream.isEmpty

/-- The schedule moves on by one step. -/
def State.passTurn (s : State) : State := { s with env := { s.env with turns := s.env.turns.drop 1 } }

/-- The agent that takes the next step, where one has a step: the one the schedule names, or, where it names none, a
free choice; an agent that alone has a step takes it. DESIGN CHOICE (log entry 10), safe. -/
def State.chooseAgent (s : State) : Option (Agent × State) :=
  match s.fgReady, s.irqReady with
  | false, false => none
  | true, false => some (.fg, s.passTurn)
  | false, true => some (.irq, s.passTurn)
  | true, true =>
    match s.env.turns with
    | a :: _ => some (a, s.passTurn)
    | [] => some (if Config.freeIrqFirst s.env.drawn then .irq else .fg, s.countDraw)

/-- What the agent does with its step. -/
inductive Action where
  /-- no agent has a step -/
  | idle
  /-- the running master operation goes on -/
  | resume (q : Seq) (s : State)
  /-- an operation is issued, its record consumed -/
  | issue (i : Instr) (s : State)
  /-- a record is refused, and consumed -/
  | malformed (s : State)

/-- The next record of an agent's stream. A refused record is consumed too, to the length its header gives it
(rules R36, R112). DESIGN CHOICE (log entry 6), unsafe. -/
def State.fetch (s : State) (a : Agent) : Action :=
  match decode (s.stream a) with
  | .ok (i, rest) => .issue i (s.setStream a rest)
  | .error _ => .malformed (s.setStream a ((s.stream a).drop (recordLength (s.stream a))))

/-- The next step of the machine. The foreground issues no operation while a master operation runs (rule R36). -/
def State.nextAction (s : State) : Action :=
  match s.chooseAgent with
  | none => .idle
  | some (.irq, s) => (s.enter .irq).fetch .irq
  | some (.fg, s) =>
    match s.master.seq with
    | some q => .resume q (s.enter .fg)
    | none => (s.enter .fg).fetch .fg

/-- A record put in front of an agent's stream and that agent given the next step; for the foreground, with no master
operation running, since it issues nothing while one runs. DEDUCED (log entry 2), safe. -/
def State.placeRecord (s : State) (bytes : List Byte) : State :=
  let a := recordAgent bytes
  let s := s.setStream a (bytes ++ s.stream a)
  let s := { s with env := { s.env with turns := a :: s.env.turns } }
  match a with
  | .irq => s
  | .fg => { s with master := { s.master with seq := none } }

end Sys2Proof.Machine
end

