-- ==== Sys2Proof/Machine/Step.lean ====
section
/-! DEFINITION. One step of the machine. -/

namespace Sys2Proof.Machine

/-- One atomic step of one agent (rules R78, R81). Where no agent has a step the state stays as it is:
DESIGN CHOICE (log entry 11), safe. -/
def step (s : State) : Host.Outcome State Fault Refusal :=
  match s.nextAction with
  | .idle => .next s
  | .resume q s => masterStep q s
  | .issue i s => exec i s
  | .malformed s => .next (s.refuseOp .decode)

/-- `s` with the record of a table word as the operation its agent issues next (log entry 2). -/
def State.withFetchWord (s : State) (nbits w : Nat) : State := s.placeRecord (recordBytes nbits w)

end Sys2Proof.Machine
end

