-- ==== Sys2Proof/Machine/Asm.lean ====
section
/-! DEFINITION. The assembler's text of an operation (rules R120, R121), with every number in decimal, and the two
pseudo-instructions, which expand to operations of the IRQ stream (rule R122). -/

namespace Sys2Proof

/-- A byte list, `[b0, b1, ...]` (rule R120). -/
def asmBytes (data : List Byte) : String :=
  "[" ++ String.intercalate ", " (data.map (fun b => toString b.toNat)) ++ "]"

/-- The line of an operation (rule R121). -/
def Instr.asm : Instr → String
  | .onStart flags => "on_start " ++ toString flags.toNat
  | .onByte byte => "on_byte " ++ toString byte.toNat
  | .onStop flags => "on_stop " ++ toString flags.toNat
  | .onError flags => "on_error " ++ toString flags.toNat
  | .onTick1ms => "tick"
  | .respRead => "resp_read"
  | .init c => if c then "init cb" else "init nocb"
  | .reset => "reset"
  | .popMessage => "pop"
  | .setResponse data => "set_response " ++ asmBytes data
  | .getResponse => "get_response"
  | .clearResponse => "clear_response"
  | .mWrite a data => "m_write " ++ toString a.toNat ++ ", " ++ asmBytes data
  | .mRead a n => "m_read " ++ toString a.toNat ++ ", " ++ toString n.toNat
  | .mWriteRead a tx n => "m_write_read " ++ toString a.toNat ++ ", " ++ asmBytes tx ++ ", " ++ toString n.toNat
  | .devWrite mem data => "dev_write " ++ toString mem.toNat ++ ", " ++ asmBytes data
  | .devRead mem n => "dev_read " ++ toString mem.toNat ++ ", " ++ toString n.toNat

/-- A line of a program listing, with its stream's mark (rule R120). -/
def Instr.listing (i : Instr) : String :=
  (match i.agent with
    | .irq => "I: "
    | .fg => "F: ") ++ i.asm

/-- `frame [b0, ..., bk-1], <flags>` (rule R122). -/
def pseudoFrame (data : List Byte) (flags : Flags) : List Instr :=
  .onStart 0 :: data.map .onByte ++ [.onStop flags]

/-- `ticks <n>` (rule R122). -/
def pseudoTicks (n : Nat) : List Instr := List.replicate n .onTick1ms

/-- A list of operations as a stream of records (rule R100). -/
def assemble (ops : List Instr) : List Byte := ops.flatMap encode

end Sys2Proof
end

