-- ==== Sys2Proof/Machine/LogWords.lean ====
section
/-! DEFINITION. The entries of the observation logs as 32-bit words, for a reader that compares logs byte for byte
(rule R119). They are not operations: a stream record with one of these opcodes is refused (rule R110). -/

namespace Sys2Proof.Machine

/-- The code of a collaborator call. -/
def callCode : Call → Nat
  | .busStop => 0
  | .busCreate => 1
  | .busStart => 2
  | .busRearmSlaveReceive => 3

/-- The code of a line. -/
def lineCode : Line → Nat
  | .scl => 0
  | .sda => 1

/-- The code of a drive state. -/
def driveCode : Drive → Nat
  | .low => 0
  | .rel => 1

/-- A log word, from its `H[31:24]` and its other fields, each shifted to its place. -/
def logWord (op fields : Nat) : Word := BitVec.ofNat 32 (op * 2 ^ 24 + fields)

/-- The word of a call-log entry. -/
def Event.word : Event → Word
  | .call c => logWord 0x40 (callCode c)
  | .line l d => logWord 0x41 (lineCode l * 2 ^ 8 + driveCode d)
  | .delay => logWord 0x42 0
  | .sample v => logWord 0x43 (if v then 1 else 0)
  | .snap => logWord 0x44 0
  | .restore => logWord 0x45 0

/-- The two words of an error-log entry. -/
def ErrorContext.words (e : ErrorContext) : List Word :=
  [logWord 0x50 (kindCode e.kind * 2 ^ 20 + (if e.dropped then 1 else 0) * 2 ^ 16 + e.flags.toNat), e.ts]

end Sys2Proof.Machine
end

