-- ==== Sys2Proof/Machine/Wire.lean ====
section
/-! DEFINITION. The pseudocode of 42_master_bus.md and 43_master_transactions.md, read from end to end with no other
agent between its steps: what a whole transaction appends to the call log and what it answers, given what the bus
device drives. The machine does not use it: statements compare the machine's atomic steps with it. -/

namespace Sys2Proof.Machine

/-- The bus of one run: the draws `DevSDA()` still to come, and the call log so far. -/
structure Bus where
  draws : List Bool
  log : List Event
deriving DecidableEq, Repr

/-- One entry is appended to the call log. -/
def Bus.put (b : Bus) (e : Event) : Bus := { b with log := b.log ++ [e] }

/-- `Line(l, d); Delay()`. -/
def Bus.edge (b : Bus) (l : Line) (d : Drive) : Bus := (b.put (.line l d)).put .delay

/-- `Sample()` with SDA released; no value where the device gives no draw. -/
def Bus.sample (b : Bus) : Option (Bool × Bus) :=
  match b.draws with
  | [] => none
  | v :: rest => some (v, ({ b with draws := rest }).put (.sample v))

/-- `Begin()` (rule R222). -/
def Bus.begin (b : Bus) : Bus := ((b.put .snap).edge .sda .rel).edge .scl .rel

/-- The four calls of `Rearm()` (rule R182). -/
def Bus.rearm (b : Bus) : Bus :=
  (((b.put (.call .busStop)).put (.call .busCreate)).put (.call .busStart)).put (.call .busRearmSlaveReceive)

/-- `End()` (rule R223). -/
def Bus.finish (b : Bus) : Bus := (b.put .restore).rearm

/-- `START()` (rule R224). -/
def Bus.start (b : Bus) : Bus := (((b.edge .sda .rel).edge .scl .rel).edge .sda .low).edge .scl .low

/-- `STOP()` (rule R225). -/
def Bus.stop (b : Bus) : Bus := ((b.edge .sda .low).edge .scl .rel).edge .sda .rel

/-- `WriteBit(v)` (rule R226). -/
def Bus.writeBit (b : Bus) (v : Bool) : Bus :=
  ((b.edge .sda (if v then .rel else .low)).edge .scl .rel).edge .scl .low

/-- `ReadAck()` (rule R227): true for ACK. -/
def Bus.readAck (b : Bus) : Option (Bool × Bus) :=
  match ((b.edge .sda .rel).edge .scl .rel).sample with
  | none => none
  | some (v, b) => some (!v, b.edge .scl .low)

/-- `WriteByte(x)` (rule R228). -/
def Bus.writeByte (b : Bus) (x : Byte) : Option (Bool × Bus) :=
  ((((((((b.writeBit x[7]).writeBit x[6]).writeBit x[5]).writeBit x[4]).writeBit x[3]).writeBit x[2]).writeBit
    x[1]).writeBit x[0]).readAck

/-- `ReadBit()` (rule R229). -/
def Bus.readBit (b : Bus) : Option (Bool × Bus) :=
  match (b.edge .scl .rel).sample with
  | none => none
  | some (v, b) => some (v, b.edge .scl .low)

/-- The next `n` ReadBits, in the order they are read. -/
def Bus.readBits : Nat → Bus → Option (List Bool × Bus)
  | 0, b => some ([], b)
  | n + 1, b =>
    match b.readBit with
    | none => none
    | some (v, b) =>
      match Bus.readBits n b with
      | none => none
      | some (vs, b) => some (v :: vs, b)

/-- `SendAck(ack)` (rule R231). -/
def Bus.sendAck (b : Bus) (ack : Bool) : Bus :=
  ((b.edge .sda (if ack then .low else .rel)).edge .scl .rel).edge .scl .low

/-- `ReadByte(last)` (rule R230): the bits make the byte most significant first. -/
def Bus.readByte (b : Bus) (last : Bool) : Option (Byte × Bus) :=
  match Bus.readBits 8 (b.edge .sda .rel) with
  | none => none
  | some (vs, b) => some (BitVec.ofNat 8 (vs.foldl (fun x v => 2 * x + v.toNat) 0), b.sendAck (!last))

/-- WriteByte after WriteByte, up to the first NACK (rule R262). -/
def Bus.writeBytes : List Byte → Bus → Option (Bool × Bus)
  | [], b => some (true, b)
  | x :: xs, b =>
    match b.writeByte x with
    | none => none
    | some (true, b) => Bus.writeBytes xs b
    | some (false, b) => some (false, b)

/-- `n` ReadBytes, the last of them NACKed (rule R263). -/
def Bus.readBytes : Nat → Bus → Option (List Byte × Bus)
  | 0, b => some ([], b)
  | n + 1, b =>
    match b.readByte (n == 0) with
    | none => none
    | some (x, b) =>
      match Bus.readBytes n b with
      | none => none
      | some (xs, b) => some (x :: xs, b)

/-- M_WRITE past its argument check (rule R262). -/
def Bus.mWrite (b : Bus) (a : BusAddr) (data : List Byte) : Option (Bool × Bus) :=
  match Bus.writeBytes (addressW a :: data) b.begin.start with
  | none => none
  | some (ok, b) => some (ok, b.stop.finish)

/-- The read phase (rules R263, R264): the address byte with R, and the bytes where it is ACKed. -/
def Bus.readPhase (b : Bus) (a : BusAddr) (n : Nat) : Option (Bool × List Byte × Bus) :=
  match b.start.writeByte (addressR a) with
  | none => none
  | some (false, b) => some (false, [], b)
  | some (true, b) =>
    match Bus.readBytes n b with
    | none => none
    | some (buf, b) => some (true, buf, b)

/-- M_READ past its argument check (rule R263). -/
def Bus.mRead (b : Bus) (a : BusAddr) (n : Nat) : Option (Bool × List Byte × Bus) :=
  match b.begin.readPhase a n with
  | none => none
  | some (ok, buf, b) => some (ok, buf, b.stop.finish)

/-- `WriteReadBody(a, tx, Lrx)` (rule R264): the read phase only if the write phase succeeded, and one stop. -/
def Bus.writeRead (b : Bus) (a : BusAddr) (tx : List Byte) (n : Nat) : Option (Bool × List Byte × Bus) :=
  match Bus.writeBytes (addressW a :: tx) b.begin.start with
  | none => none
  | some (false, b) => some (false, [], b.stop.finish)
  | some (true, b) =>
    match b.readPhase a n with
    | none => none
    | some (ok, buf, b) => some (ok, buf, b.stop.finish)

/-- `Probe(a)` (rule R265). -/
def Bus.probe (b : Bus) (a : BusAddr) : Option (Bool × Bus) :=
  match b.begin.start.writeByte (addressW a) with
  | none => none
  | some (ack, b) => some (ack, b.stop.finish)

/-- `ReadyPoll(a)` with `k` attempts left (rule R266): one Delay between two probes. -/
def Bus.readyPoll (a : BusAddr) : Nat → Bus → Option (Bool × Bus)
  | 0, b => some (false, b)
  | k + 1, b =>
    match b.probe a with
    | none => none
    | some (true, b) => some (true, b)
    | some (false, b) => Bus.readyPoll a k (if k = 0 then b else b.put .delay)

/-- The chunks of a DEV_WRITE, each followed by ready-polling, up to the first failure (rule R268). -/
def Bus.devWrite (a : BusAddr) (probeMax : Nat) : List (List Byte) → Bus → Option (Bool × Bus)
  | [], b => some (true, b)
  | p :: rest, b =>
    match b.mWrite a p with
    | none => none
    | some (false, b) => some (false, b)
    | some (true, b) =>
      match Bus.readyPoll a probeMax b with
      | none => none
      | some (false, b) => some (false, b)
      | some (true, b) => Bus.devWrite a probeMax rest b

end Sys2Proof.Machine
end

