-- ==== Sys2Proof/Safety.lean ====
section
/-! DEFINITION. The terms claims are stated in: the invariant of the state (10_state.md), the queue a ring stands for,
a good run, and the step bounds of rule R272. -/

namespace Sys2Proof.Machine

/-! ### The invariant -/

/-- Whether the master owns the lines after these primitives, if it does (`owns`) before them; no value where one of
them is performed out of its place (rules R221, R222, R223). -/
def ownsAfter : Bool → List Prim → Option Bool
  | owns, [] => some owns
  | false, .snap :: rest => ownsAfter true rest
  | true, .snap :: _ => none
  | true, .line _ _ :: rest => ownsAfter true rest
  | false, .line _ _ :: _ => none
  | owns, .delay :: rest => ownsAfter owns rest
  | true, .sampleAck :: rest => ownsAfter true rest
  | false, .sampleAck :: _ => none
  | true, .sampleBit _ :: rest => ownsAfter true rest
  | false, .sampleBit _ :: _ => none
  | true, .restore :: rest => ownsAfter false rest
  | false, .restore :: _ => none
  | false, .rearm :: rest => ownsAfter false rest
  | true, .rearm :: _ => none
  | owns, .call _ :: rest => ownsAfter owns rest

/-- Whether the master owns the lines at the end of a stage: from Begin until End (rule R40). -/
def Stage.endsOwned : Stage → Bool
  | .opening => true
  | .acting _ => true
  | .closing => false
  | .pausing _ _ => false

/-- A position inside a master operation: a step is left, and every step left is performed in its place. -/
def Seq.Ok (q : Seq) (owns : Bool) : Prop := q.todo ≠ [] ∧ ownsAfter owns q.todo = some q.stage.endsOwned

/-- The invariant of the state between two steps. -/
structure State.Inv (s : State) : Prop where
  cfgWf : s.cfg.wf = true
  /-- rule R33 -/
  frameIdle : s.frame.receiving = false → s.frame.bytes = [] ∧ s.frame.ticks = 0
  /-- rule R33 -/
  frameLength : s.frame.bytes.length ≤ s.cfg.frameMax
  /-- rule R33 -/
  ticksFit : s.frame.ticks ≤ counterMax s.cfg.ticksWidth
  /-- rule R34 -/
  slotCount : s.ring.slots.length = s.cfg.ringCapacity
  /-- rule R34 -/
  headRange : s.ring.head < s.cfg.ringCapacity
  /-- rule R34 -/
  tailRange : s.ring.tail < s.cfg.ringCapacity
  /-- rule R34 -/
  countRange : s.ring.count ≤ s.cfg.ringCapacity
  /-- rule R34 -/
  headPlace : s.ring.head = (s.ring.tail + s.ring.count) % s.cfg.ringCapacity
  /-- rule R35 -/
  messages : ∀ m ∈ s.ring.slots, m.length = m.bytes.length ∧ m.bytes.length ≤ s.cfg.frameMax ∧
    m.ts.toNat < 2 ^ s.cfg.timestampWidth
  /-- rule R37 -/
  respBytes : s.resp.bytes.length = s.resp.length
  /-- rule R37 -/
  respRange : s.resp.length ≤ s.cfg.respMax
  /-- rule R37 -/
  respCursor : s.resp.cursor ≤ s.resp.length
  /-- rule R37 -/
  respPending : s.resp.pending = true ↔ 1 ≤ s.resp.length
  /-- rule R40 -/
  snapOwned : s.master.snap.isSome = s.master.owns
  /-- rule R40 -/
  cfgOwned : s.master.owns = true → s.lines.cfgScl = Config.mcfg ∧ s.lines.cfgSda = Config.mcfg
  /-- rule R343 -/
  atRest : s.master.seq = none → s.master.owns = false
  /-- rules R36, R233 -/
  seqOk : ∀ q, s.master.seq = some q → q.Ok s.master.owns
  /-- rule R41: a set -/
  faultSet : s.log.faults.Nodup
  /-- rule R312: the foreground is the context after every operation -/
  foreground : s.ctx = .fg

/-! ### What a ring stands for -/

/-- The queued messages, oldest first (rule R34). -/
def State.queue (s : State) : List Message :=
  (List.range s.ring.count).map
    (fun k => s.ring.slots.getD ((s.ring.tail + k) % s.cfg.ringCapacity) Message.blank)

/-! ### Good runs -/

/-- A good state carries no fault bit and no refusal (rule R10). -/
def State.good (s : State) : Bool := s.log.faults.isEmpty && s.log.refused.isNone

/-- The four calls of one re-arm (rule R182). -/
def rearmEvents : List Event :=
  [.call .busStop, .call .busCreate, .call .busStart, .call .busRearmSlaveReceive]

/-- The call log, the error log, the fault bits, the refusal and the returned values of `s` all begin those of `t`
(rule R41). -/
def LogGrows (s t : State) : Prop :=
  s.log.errlog <+: t.log.errlog ∧ s.log.calllog <+: t.log.calllog ∧ s.log.faults <+: t.log.faults ∧
    s.log.returns <+: t.log.returns ∧ (∀ r, s.log.refused = some r → t.log.refused = some r)

/-! ### Where an operation is admitted, and what a refused one leaves -/

/-- An operation is admitted: in its own context, and after INIT where it needs it (rules R148, R187, R232). -/
def Admitted (i : Instr) (s : State) : Prop := s.ctx = i.agent ∧ (i.needsInit = true → s.life = .ready)

/-- The state after a refused operation: the mark, if it is the first, the position, and nothing else (rules R10, R36). -/
def refusedIn (s : State) (r : RefusalMark) : State :=
  match s.ctx with
  | .fg => { s with log := { s.log with refused := s.log.refused.or (some r) }, fgPc := s.fgPc + 1 }
  | .irq => { s with log := { s.log with refused := s.log.refused.or (some r) }, irqPc := s.irqPc + 1, ctx := .fg }

/-- The fault bits after a re-arm (rules R182, R354): `REARM_DURING_MASTER` is set if the master owns the lines. -/
def faultsAfterRearm (s : State) : List FaultMark :=
  if s.master.owns = true ∧ FaultMark.rearmDuringMaster ∉ s.log.faults then s.log.faults ++ [.rearmDuringMaster]
  else s.log.faults

/-- The log after a report (rule R302). -/
def reported (s : State) (kind : ErrorKind) (flags : Flags) (dropped : Bool) (ts : Timestamp) : Log :=
  { s.log with errlog := if s.cb then s.log.errlog ++ [{ kind, flags, dropped, ts }] else s.log.errlog }

/-- An error has been taken by an interrupt-context operation begun in `s` (rules R147, R301, R302): the report, with
the draw of its time, and the forced reset of the configured scope; nothing else. What
the ring slots hold is kept: DESIGN CHOICE (log entry 17), unsafe. -/
structure ErrorTaken (s : State) (kind : ErrorKind) (flags : Flags) (dropped : Bool) (t : State) : Prop where
  cfg : t.cfg = s.cfg
  life : t.life = s.life
  cb : t.cb = s.cb
  frame : t.frame = { receiving := false, bytes := [], ticks := 0 }
  full : s.cfg.forcedResetScope = .full →
    t.ring = { s.ring with head := 0, tail := 0, count := 0 } ∧
      t.resp = { bytes := [], length := 0, cursor := 0, pending := false }
  frameOnly : s.cfg.forcedResetScope = .frameOnly → t.ring = s.ring ∧ t.resp = s.resp
  lines : t.lines = s.lines
  master : t.master = s.master
  fgPc : t.fgPc = s.fgPc
  irqPc : t.irqPc = s.irqPc + 1
  ctx : t.ctx = .fg
  errlog : t.log.errlog = (reported s kind flags dropped s.drawNow.1).errlog
  calllog : t.log.calllog = s.log.calllog ++ rearmEvents
  faults : t.log.faults = faultsAfterRearm s
  refused : t.log.refused = s.log.refused
  returns : t.log.returns = s.log.returns
  env : t.env = s.drawNow.2.env

/-- The outcome with its next state changed. -/
def mapNext (f : State → State) : Host.Outcome State Fault Refusal → Host.Outcome State Fault Refusal
  | .next s => .next (f s)
  | .fault r => .fault r
  | .refused r => .refused r

/-- The engine's buffers empty, as RESET leaves them (rule R341), and the log with one re-arm more. What the ring slots
hold is kept: DESIGN CHOICE (log entry 17), unsafe. -/
def cleared (s : State) : State :=
  { s with
    frame := { receiving := false, bytes := [], ticks := 0 }
    ring := { s.ring with head := 0, tail := 0, count := 0 }
    resp := { bytes := [], length := 0, cursor := 0, pending := false }
    log := { s.log with calllog := s.log.calllog ++ rearmEvents, faults := faultsAfterRearm s } }

/-- The master at rest, with both lines released and their configurations as in `s` (rule R343). -/
def restored (s : State) : State :=
  { s with
    master := { owns := false, snap := none, seq := none }
    lines := { s.lines with drvScl := .rel, drvSda := .rel } }

/-! ### Step bounds (rule R272) -/

/-- The log entries of one entry of a transaction. -/
def actCost : Act → Nat
  | .start => 8
  | .write _ => 55
  | .read _ => 48

/-- The log entries of a list of them. -/
def actsCost (acts : List Act) : Nat := (acts.map actCost).sum

/-- The most log entries a ReadyPoll of `k` attempts makes. -/
def pollCost (k : Nat) : Nat := 79 * k + (k - 1)

/-- The most log entries the chunks with these payloads make, their ready-polling included. -/
def payloadsCost (p : Params) (payloads : List (List Byte)) : Nat :=
  (payloads.map (fun d => 24 + 55 * (d.length + 1) + pollCost p.probeMax)).sum

/-- The most log entries that follow the running transaction. -/
def jobCost (p : Params) : Job → Nat
  | .write => 0
  | .read => 0
  | .chunk payloads => pollCost p.probeMax + payloadsCost p payloads
  | .probe k payloads => 80 * (p.probeMax - k) + payloadsCost p payloads

/-- The most log entries of the running transaction after the present stage. -/
def stageCost (q : Seq) : Nat :=
  match q.stage with
  | .opening => actsCost q.acts + 11
  | .acting _ => actsCost q.acts + 11
  | .closing => 0
  | .pausing _ _ => 79

/-- The most steps, each with its one log entry, that the running master operation still takes. -/
def Seq.bound (p : Params) (q : Seq) : Nat :=
  q.todo.length + stageCost q + jobCost p (match q.stage with
    | .pausing k payloads => .probe k payloads
    | _ => q.job)

/-- The bound of rule R272 on the log entries of a master operation. -/
def opBound (p : Params) : Instr → Nat
  | .mWrite _ data => 24 + 55 * (data.length + 1)
  | .mRead _ n => 24 + 55 + 48 * n.toNat
  | .mWriteRead _ tx n => 32 + 55 * (tx.length + 2) + 48 * n.toNat
  | .devWrite mem data =>
    ((chunks p.pageSize mem data.length).map (fun c => 24 + 55 * (c.n + 3) + 79 * p.probeMax + (p.probeMax - 1))).sum
  | .devRead _ n => 32 + 55 * (2 + 2) + 48 * n.toNat
  | .onStart _ => 0
  | .onByte _ => 0
  | .onStop _ => 0
  | .onError _ => 0
  | .onTick1ms => 0
  | .respRead => 0
  | .init _ => 0
  | .reset => 0
  | .popMessage => 0
  | .setResponse _ => 0
  | .getResponse => 0
  | .clearResponse => 0

/-- The master operations: the opcodes of class 0x3 (rule R101). -/
def isMaster : Instr → Bool
  | .mWrite _ _ => true
  | .mRead _ _ => true
  | .mWriteRead _ _ _ => true
  | .devWrite _ _ => true
  | .devRead _ _ => true
  | .onStart _ => false
  | .onByte _ => false
  | .onStop _ => false
  | .onError _ => false
  | .onTick1ms => false
  | .respRead => false
  | .init _ => false
  | .reset => false
  | .popMessage => false
  | .setResponse _ => false
  | .getResponse => false
  | .clearResponse => false

end Sys2Proof.Machine
end

