-- ==== Sys2Proof/Certificates/Slice0/Obligations.lean ====
section
/-! DEFINITION. The statements for the provers, from the numbered rules of spec/. -/

open Sys2Proof Sys2Proof.Machine

/-! ### Encoding -/

/-- Every operation whose payload fits decodes back from its record, whatever follows it in the stream. -/
def Obligations.DecodeOfEncode : Prop :=
  ∀ (i : Instr) (rest : List Byte), i.wf = true → decode (encode i ++ rest) = .ok (i, rest)

/-- A record that decodes is the record of what it decodes to: no two records mean one operation, and every decoded
operation has a payload its length field can name. -/
def Obligations.EncodeOfDecode : Prop :=
  ∀ (bs rest : List Byte) (i : Instr), decode bs = .ok (i, rest) → bs = encode i ++ rest ∧ i.wf = true

/-- Rules R102 to R109: the formats, field by field, for each operation that uses them. -/
def Obligations.FormatsGiveTheirFields : Prop :=
  ∀ (b2 b1 b0 : Byte) (rest : List Byte),
    -- format N (R102)
    decode (0x14 :: 0 :: 0 :: 0 :: rest) = .ok (.onTick1ms, rest) ∧
    decode (0x15 :: 0 :: 0 :: 0 :: rest) = .ok (.respRead, rest) ∧
    decode (0x21 :: 0 :: 0 :: 0 :: rest) = .ok (.reset, rest) ∧
    decode (0x22 :: 0 :: 0 :: 0 :: rest) = .ok (.popMessage, rest) ∧
    decode (0x24 :: 0 :: 0 :: 0 :: rest) = .ok (.getResponse, rest) ∧
    decode (0x25 :: 0 :: 0 :: 0 :: rest) = .ok (.clearResponse, rest) ∧
    -- format F (R103)
    decode (0x10 :: 0 :: b1 :: b0 :: rest) = .ok (.onStart (b1 ++ b0), rest) ∧
    decode (0x12 :: 0 :: b1 :: b0 :: rest) = .ok (.onStop (b1 ++ b0), rest) ∧
    decode (0x13 :: 0 :: b1 :: b0 :: rest) = .ok (.onError (b1 ++ b0), rest) ∧
    -- format B (R104)
    decode (0x11 :: 0 :: 0 :: b0 :: rest) = .ok (.onByte b0, rest) ∧
    -- format I (R105)
    decode (0x20 :: 0 :: 0 :: 1 :: rest) = .ok (.init true, rest) ∧
    decode (0x20 :: 0 :: 0 :: 0 :: rest) = .ok (.init false, rest) ∧
    -- format P (R106)
    (b1.toNat ≤ rest.length →
      decode (0x23 :: 0 :: b1 :: 0 :: rest) = .ok (.setResponse (rest.take b1.toNat), rest.drop b1.toNat)) ∧
    -- format MA (R107)
    (b1.toNat ≤ rest.length →
      decode (0x30 :: b2 :: b1 :: 0 :: rest) = .ok (.mWrite b2 (rest.take b1.toNat), rest.drop b1.toNat)) ∧
    decode (0x31 :: b2 :: b1 :: 0 :: rest) = .ok (.mRead b2 b1, rest) ∧
    -- format MWR (R108)
    (b1.toNat ≤ rest.length →
      decode (0x32 :: b2 :: b1 :: b0 :: rest) =
        .ok (.mWriteRead b2 (rest.take b1.toNat) b0, rest.drop b1.toNat)) ∧
    -- format MD (R109)
    (b2.toNat ≤ rest.length →
      decode (0x33 :: b2 :: b1 :: b0 :: rest) =
        .ok (.devWrite (b1 ++ b0) (rest.take b2.toNat), rest.drop b2.toNat)) ∧
    decode (0x34 :: b2 :: b1 :: b0 :: rest) = .ok (.devRead (b1 ++ b0) b2, rest)

/-- Rule R110, first kind: exactly the opcodes 0x00 to 0x0F, 0x16 to 0x1F, 0x26 to 0x2F and 0x35 to 0xFF are reserved. -/
def Obligations.ReservedOpcodesAreRefused : Prop :=
  ∀ (op b2 b1 b0 : Byte) (rest : List Byte),
    decode (op :: b2 :: b1 :: b0 :: rest) = .error .reservedOpcode ↔
      op.toNat ≤ 0x0F ∨ (0x16 ≤ op.toNat ∧ op.toNat ≤ 0x1F) ∨ (0x26 ≤ op.toNat ∧ op.toNat ≤ 0x2F) ∨ 0x35 ≤ op.toNat

/-- Rule R110, second kind: a known opcode with a nonzero bit in a field marked 0. -/
def Obligations.NonzeroFieldsAreRefused : Prop :=
  ∀ (op b2 b1 b0 : Byte) (rest : List Byte),
    decode (op :: b2 :: b1 :: b0 :: rest) = .error .nonzeroField ↔
      ((op.toNat = 0x10 ∨ op.toNat = 0x12 ∨ op.toNat = 0x13) ∧ b2 ≠ 0) ∨
      (op.toNat = 0x11 ∧ (b2 ≠ 0 ∨ b1 ≠ 0)) ∨
      ((op.toNat = 0x14 ∨ op.toNat = 0x15 ∨ op.toNat = 0x21 ∨ op.toNat = 0x22 ∨ op.toNat = 0x24 ∨ op.toNat = 0x25) ∧
        (b2 ≠ 0 ∨ b1 ≠ 0 ∨ b0 ≠ 0)) ∨
      (op.toNat = 0x20 ∧ (b2 ≠ 0 ∨ b1 ≠ 0 ∨ 2 ≤ b0.toNat)) ∨
      (op.toNat = 0x23 ∧ (b2 ≠ 0 ∨ b0 ≠ 0)) ∨
      ((op.toNat = 0x30 ∨ op.toNat = 0x31) ∧ b0 ≠ 0)

/-- Rule R110, third kind: a stream that ends inside a record, after whatever byte of it. The empty stream ends inside no
record: it splits into none (rule R112). -/
def Obligations.TruncatedRecordsAreRefused : Prop :=
  ∀ (i : Instr) (k : Nat), i.wf = true → 0 < k → k < (encode i).length → decode ((encode i).take k) = .error .truncated

/-- Rule R112: a decoded record is as long as its first four bytes say, and what follows it is the rest. -/
def Obligations.RecordLengthIsInTheHeader : Prop :=
  ∀ (bs rest : List Byte) (i : Instr), decode bs = .ok (i, rest) →
    4 ≤ bs.length ∧ recordLength bs = 4 + i.payload.length ∧ recordLength bs ≤ bs.length ∧
      rest = bs.drop (recordLength bs)

/-- Words written out from the spec's encodings (30_encoding.md, 95_test_vectors.md §2.1) decode to what they stand for. -/
def Obligations.SpecWordsDecode : Prop :=
  decode [0x13, 0x00, 0x00, 0x28] = .ok (.onError 0x0028, []) ∧
  decode [0x11, 0x00, 0x00, 0x5A] = .ok (.onByte 0x5A, []) ∧
  decode [0x20, 0x00, 0x00, 0x01] = .ok (.init true, []) ∧
  decode [0x23, 0x00, 0x03, 0x00, 0x10, 0x20, 0x30] = .ok (.setResponse [0x10, 0x20, 0x30], []) ∧
  decode [0x30, 0xA0, 0x01, 0x00, 0x41] = .ok (.mWrite 0xA0 [0x41], []) ∧
  decode [0x32, 0x50, 0x02, 0x04, 0x00, 0x10] = .ok (.mWriteRead 0x50 [0x00, 0x10] 4, []) ∧
  decode [0x33, 0x04, 0x00, 0x0E, 0x01, 0x02, 0x03, 0x04] = .ok (.devWrite 0x000E [0x01, 0x02, 0x03, 0x04], []) ∧
  decode [0x34, 0x04, 0x01, 0x23] = .ok (.devRead 0x0123 4, [])

/-- Rule R119: the words of the two logs, field by field, with the kind codes of rule R300. -/
def Obligations.LogWordsGiveTheirFields : Prop :=
  (Event.call .busStop).word = 0x40000000 ∧ (Event.call .busCreate).word = 0x40000001 ∧
  (Event.call .busStart).word = 0x40000002 ∧ (Event.call .busRearmSlaveReceive).word = 0x40000003 ∧
  (Event.line .scl .low).word = 0x41000000 ∧ (Event.line .scl .rel).word = 0x41000001 ∧
  (Event.line .sda .low).word = 0x41000100 ∧ (Event.line .sda .rel).word = 0x41000101 ∧
  Event.delay.word = 0x42000000 ∧ (Event.sample false).word = 0x43000000 ∧ (Event.sample true).word = 0x43000001 ∧
  Event.snap.word = 0x44000000 ∧ Event.restore.word = 0x45000000 ∧
  kindCode .busError = 1 ∧ kindCode .arbitrationLost = 2 ∧ kindCode .overrun = 3 ∧ kindCode .nack = 4 ∧
  kindCode .lineStuck = 5 ∧ kindCode .frame = 6 ∧ kindCode .timeout = 7 ∧
  (∀ e : ErrorContext, ∃ w, e.words = [w, e.ts] ∧ w.extractLsb' 24 8 = 0x50#8 ∧
    w.extractLsb' 20 4 = BitVec.ofNat 4 (kindCode e.kind) ∧ w.extractLsb' 17 3 = 0#3 ∧
    w.getLsbD 16 = e.dropped ∧ w.extractLsb' 0 16 = e.flags) ∧
  ∀ op ∈ [0x40#8, 0x41#8, 0x42#8, 0x43#8, 0x44#8, 0x45#8, 0x50#8], ∀ (b2 b1 b0 : Byte) (rest : List Byte),
    decode (op :: b2 :: b1 :: b0 :: rest) = .error .reservedOpcode

/-- Two log entries with the same words are the same entry: the words of rule R119 lose nothing. -/
def Obligations.LogWordsAreInjective : Prop :=
  (∀ e f : Event, e.word = f.word → e = f) ∧ (∀ e f : ErrorContext, e.words = f.words → e = f)

/-! ### Admission of operations -/

/-- Rule R148 (and the IRQ half of rule R312): an interrupt-context operation in the FG stream, or before INIT. Where
both hold the spec gives both reasons and no precedence, and the mark is one of the two (log entry 7). -/
def Obligations.IrqOperationsOutOfPlaceAreRefused : Prop :=
  ∀ (i : Instr) (s : State), i.agent = .irq →
    (s.ctx = .fg → s.life = .ready → exec i s = .next (refusedIn s .wrongContext)) ∧
    (s.ctx = .irq → s.life = .uninit → exec i s = .next (refusedIn s .notInit)) ∧
    (s.ctx = .fg → s.life = .uninit → ∃ r t, (r = .wrongContext ∨ r = .notInit) ∧ exec i s = .next t ∧
      t = { refusedIn s r with env := { s.env with drawn := s.env.drawn + 1 } })

/-- Rules R187 and R232: a foreground operation in the IRQ stream, and one that needs INIT before INIT. -/
def Obligations.ForegroundOperationsOutOfPlaceAreRefused : Prop :=
  ∀ (i : Instr) (s : State), i.agent = .fg →
    (s.ctx = .irq → (i.needsInit = false ∨ s.life = .ready) → exec i s = .next (refusedIn s .wrongContext)) ∧
    (s.ctx = .fg → i.needsInit = true → s.life = .uninit → exec i s = .next (refusedIn s .notInit)) ∧
    (s.ctx = .irq → i.needsInit = true → s.life = .uninit →
      ∃ r t, (r = .wrongContext ∨ r = .notInit) ∧ exec i s = .next t ∧
        t = { refusedIn s r with env := { s.env with drawn := s.env.drawn + 1 } })

/-- Decision D35: a payload no length field can name is refused by name wherever its operation is admitted. -/
def Obligations.OverlongPayloadsAreRefused : Prop :=
  ∀ (i : Instr) (s : State), Admitted i s → i.wf = false → exec i s = .refused .payloadTooLong

/-! ### Slave interrupt-context operations -/

/-- Rule R140: ON_START begins a frame and discards a partial one; nothing else changes. -/
def Obligations.OnStartBeginsAFrame : Prop :=
  ∀ flags : Flags, encode (.onStart flags) = [0x10, 0, hiByte flags, loByte flags] ∧
    ∀ s : State, Admitted (.onStart flags) s →
      exec (.onStart flags) s =
        .next { s with
          frame := { receiving := true, bytes := [], ticks := 0 }
          irqPc := s.irqPc + 1
          ctx := .fg }

/-- Rule R141: ON_BYTE with no frame, below the capacity, and at it. That the forced reset keeps what the ring slots hold
is the model's choice (log entry 17): rules R43 and R341 give the slots no value there. -/
def Obligations.OnByteAppendsOrOverruns : Prop :=
  ∀ byte : Byte, encode (.onByte byte) = [0x11, 0, 0, byte] ∧ ∀ s : State, Admitted (.onByte byte) s →
    (s.frame.receiving = false →
      exec (.onByte byte) s = .next { s with irqPc := s.irqPc + 1, ctx := .fg }) ∧
    (s.frame.receiving = true → s.frame.bytes.length < s.cfg.frameMax →
      exec (.onByte byte) s =
        .next { s with
          frame := { receiving := true, bytes := s.frame.bytes ++ [byte], ticks := 0 }
          irqPc := s.irqPc + 1
          ctx := .fg }) ∧
    (s.frame.receiving = true → s.cfg.frameMax ≤ s.frame.bytes.length →
      ∃ t, exec (.onByte byte) s = .next t ∧ ErrorTaken s .overrun 0 true t)

/-- Rule R142: ON_STOP with no frame, with an empty frame that is not to be enqueued, with the ring full, and with room
in it. `NowMs()` is drawn once on every path: the next draw given, at the 32 bits of a timestamp, and that draw consumed. -/
def Obligations.OnStopFinalizesTheFrame : Prop :=
  ∀ flags : Flags, encode (.onStop flags) = [0x12, 0, hiByte flags, loByte flags] ∧
   ∀ s : State, Admitted (.onStop flags) s →
    (∀ ts rest, s.env.now = ts :: rest → s.drawNow.2.env = { s.env with now := rest } ∧
      (s.cfg.timestampWidth = 32 → s.drawNow.1 = ts)) ∧
    (s.frame.receiving = false →
      exec (.onStop flags) s =
        .next { s with
          log := reported s .frame flags false s.drawNow.1
          env := s.drawNow.2.env
          irqPc := s.irqPc + 1
          ctx := .fg }) ∧
    (s.frame.receiving = true → s.frame.bytes = [] → s.cfg.enqueueEmpty = false →
      exec (.onStop flags) s =
        .next { s with
          frame := { receiving := false, bytes := [], ticks := 0 }
          env := s.drawNow.2.env
          irqPc := s.irqPc + 1
          ctx := .fg }) ∧
    (s.frame.receiving = true → (s.frame.bytes ≠ [] ∨ s.cfg.enqueueEmpty = true) →
      s.ring.count = s.cfg.ringCapacity →
      exec (.onStop flags) s =
        .next { s with
          frame := { receiving := false, bytes := [], ticks := 0 }
          log := { reported s .overrun flags true s.drawNow.1 with
            calllog := if s.cfg.stopOverrunRearm then s.log.calllog ++ rearmEvents else s.log.calllog
            faults := if s.cfg.stopOverrunRearm then faultsAfterRearm s else s.log.faults }
          env := s.drawNow.2.env
          irqPc := s.irqPc + 1
          ctx := .fg }) ∧
    (s.frame.receiving = true → (s.frame.bytes ≠ [] ∨ s.cfg.enqueueEmpty = true) →
      s.ring.count < s.cfg.ringCapacity →
      exec (.onStop flags) s =
        .next { s with
          frame := { receiving := false, bytes := [], ticks := 0 }
          ring := {
            slots := s.ring.slots.set s.ring.head
              { bytes := s.frame.bytes, length := s.frame.bytes.length, flags, ts := s.drawNow.1 }
            head := (s.ring.head + 1) % s.cfg.ringCapacity
            tail := s.ring.tail
            count := s.ring.count + 1 }
          env := s.drawNow.2.env
          irqPc := s.irqPc + 1
          ctx := .fg })

/-- Rule R143: ON_ERROR reports once, whatever its flags, with `dropped` the value of `receiving` before the reset. That
the forced reset keeps what the ring slots hold is the model's choice (log entry 17): rules R43 and R341 give the slots no
value there. -/
def Obligations.OnErrorReportsAndResets : Prop :=
  ∀ flags : Flags, encode (.onError flags) = [0x13, 0, hiByte flags, loByte flags] ∧
   ∀ s : State, Admitted (.onError flags) s →
    ∃ t, exec (.onError flags) s = .next t ∧ ErrorTaken s (classify s.cfg flags) flags s.frame.receiving t

/-- Rule R144: the strict priority order over the named flags of a 16-bit word, and no other bit of it matters. -/
def Obligations.ClassifyFollowsThePriority : Prop :=
  ∀ (p : Params) (flags : Flags), p.flagsWidth = 16 →
    (flags.getLsbD p.bitBusErr = true → classify p flags = .busError) ∧
    (flags.getLsbD p.bitBusErr = false → flags.getLsbD p.bitArbLost = true → classify p flags = .arbitrationLost) ∧
    (flags.getLsbD p.bitBusErr = false → flags.getLsbD p.bitArbLost = false → flags.getLsbD p.bitOvr = true →
      classify p flags = .overrun) ∧
    (flags.getLsbD p.bitBusErr = false → flags.getLsbD p.bitArbLost = false → flags.getLsbD p.bitOvr = false →
      flags.getLsbD p.bitNack = true →
      classify p flags = match p.nackKind with
        | .nack => .nack
        | .frame => .frame) ∧
    (flags.getLsbD p.bitBusErr = false → flags.getLsbD p.bitArbLost = false → flags.getLsbD p.bitOvr = false →
      flags.getLsbD p.bitNack = false → flags.getLsbD p.bitLineStuck = true → classify p flags = .lineStuck) ∧
    (flags.getLsbD p.bitBusErr = false → flags.getLsbD p.bitArbLost = false → flags.getLsbD p.bitOvr = false →
      flags.getLsbD p.bitNack = false → flags.getLsbD p.bitLineStuck = false → flags.getLsbD p.bitFrameFmt = true →
      classify p flags = .frame) ∧
    (flags.getLsbD p.bitBusErr = false → flags.getLsbD p.bitArbLost = false → flags.getLsbD p.bitOvr = false →
      flags.getLsbD p.bitNack = false → flags.getLsbD p.bitLineStuck = false → flags.getLsbD p.bitFrameFmt = false →
      classify p flags = p.emptyFlagsKind) ∧
    (∀ other : Flags,
      (∀ b ∈ [p.bitBusErr, p.bitArbLost, p.bitOvr, p.bitNack, p.bitLineStuck, p.bitFrameFmt],
        other.getLsbD b = flags.getLsbD b) →
      classify p other = classify p flags)

/-- The status word at a width other than 16 (the model's choice, log entry 19): its kind is that of the 16-bit word that
has its bits below `P_FLAGS_WIDTH`, and 0 above them. -/
def Obligations.ClassifyReadsTheWidthOfTheWord : Prop :=
  ∀ (p : Params) (flags word : Flags),
    (∀ b, word.getLsbD b = (decide (b < p.flagsWidth) && flags.getLsbD b)) →
    classify p flags = classify { p with flagsWidth := 16 } word

/-- Rule R9: `NowMs()` is the next draw the environment has given, and consumes it; where it has given none, it is some
value (log entry 8). Nothing else changes, and a timestamp has `P_TIMESTAMP_WIDTH` bits: at a width other than 32, that it
is cut to them is the model's choice (log entry 19). -/
def Obligations.NowMsIsTheNextDraw : Prop :=
  ∀ s : State,
    (∀ ts rest, s.env.now = ts :: rest →
      s.drawNow.2 = { s with env := { s.env with now := rest } } ∧
      s.drawNow.1.toNat = ts.toNat % 2 ^ s.cfg.timestampWidth ∧
      (s.cfg.timestampWidth = 32 → s.drawNow.1 = ts)) ∧
    (s.env.now = [] → s.drawNow.2 = { s with env := { s.env with drawn := s.env.drawn + 1 } }) ∧
    s.drawNow.1.toNat < 2 ^ s.cfg.timestampWidth

/-- Rule R145: ON_TICK_1MS with no frame, below the timeout, and at it. The counter saturates at the largest value of
`P_TICKS_WIDTH` bits: sat16 at the width 16, and the model's choice at every other (log entry 26). That the forced reset
keeps what the ring slots hold is the model's choice too (log entry 17). -/
def Obligations.OnTickCountsAndTimesOut : Prop :=
  encode .onTick1ms = [0x14, 0, 0, 0] ∧ ∀ s : State, Admitted .onTick1ms s →
    (s.frame.receiving = false →
      exec .onTick1ms s = .next { s with irqPc := s.irqPc + 1, ctx := .fg }) ∧
    (s.frame.receiving = true → min (s.frame.ticks + 1) (2 ^ s.cfg.ticksWidth - 1) < s.cfg.slaveTimeout →
      exec .onTick1ms s =
        .next { s with
          frame := { s.frame with ticks := min (s.frame.ticks + 1) (2 ^ s.cfg.ticksWidth - 1) }
          irqPc := s.irqPc + 1
          ctx := .fg }) ∧
    (s.frame.receiving = true → s.cfg.slaveTimeout ≤ min (s.frame.ticks + 1) (2 ^ s.cfg.ticksWidth - 1) →
      ∃ t, exec .onTick1ms s = .next t ∧ ErrorTaken s .timeout 0 true t)

/-- Rule R146: RESP_READ serves the byte at the cursor, or the fill byte with no change. -/
def Obligations.RespReadServesTheResponse : Prop :=
  encode .respRead = [0x15, 0, 0, 0] ∧ ∀ s : State, Admitted .respRead s →
    (∀ v, s.resp.pending = true → s.resp.cursor < s.resp.length → s.resp.bytes[s.resp.cursor]? = some v →
      exec .respRead s =
        .next { s with
          resp := { s.resp with cursor := s.resp.cursor + 1 }
          log := { s.log with returns := s.log.returns ++ [.byte v] }
          irqPc := s.irqPc + 1
          ctx := .fg }) ∧
    ((s.resp.pending = false ∨ s.resp.length ≤ s.resp.cursor) →
      exec .respRead s =
        .next { s with
          log := { s.log with returns := s.log.returns ++ [.byte s.cfg.respFill] }
          irqPc := s.irqPc + 1
          ctx := .fg })

/-- Rules R307 and R309: an interrupt-context operation makes at most one report and at most one re-arm. -/
def Obligations.IrqOperationsAreBounded : Prop :=
  ∀ (i : Instr) (s t : State), i.agent = .irq → exec i s = .next t →
    (t.log.errlog = s.log.errlog ∨ ∃ e, t.log.errlog = s.log.errlog ++ [e]) ∧
    (t.log.calllog = s.log.calllog ∨ t.log.calllog = s.log.calllog ++ rearmEvents)

/-- Rule R233: the interrupt-context operations neither read nor write the lines, and leave a running master operation
where it is. -/
def Obligations.IrqOperationsIgnoreTheLines : Prop :=
  ∀ (i : Instr) (s : State) (ls : Lines), i.agent = .irq →
    exec i { s with lines := ls } = mapNext (fun t => { t with lines := ls }) (exec i s) ∧
    (∀ t, exec i s = .next t → t.lines = s.lines ∧ t.master = s.master)

/-- Rule R354: an interrupt-context operation that re-arms while the master owns the lines sets the fault bit, and one
run while the master does not own them sets none. -/
def Obligations.RearmDuringMasterSetsTheFault : Prop :=
  ∀ (i : Instr) (s t : State), i.agent = .irq → exec i s = .next t →
    (s.master.owns = true → t.log.calllog ≠ s.log.calllog → FaultMark.rearmDuringMaster ∈ t.log.faults) ∧
    (s.master.owns = false → t.log.faults = s.log.faults)

/-! ### Slave foreground operations -/

/-- Rules R180 and R341: INIT registers the callback, makes the engine ready and resets it, before and after INIT. That it
keeps what the ring slots hold is the model's choice (log entry 17): rule R43 gives the slots no value there. -/
def Obligations.InitRegistersAndResets : Prop :=
  ∀ c : Bool, encode (.init c) = [0x20, 0, 0, if c then 1 else 0] ∧ ∀ s : State, s.ctx = .fg →
    exec (.init c) s = .next { cleared s with cb := c, life := .ready, fgPc := s.fgPc + 1 }

/-- Rules R181 and R341: RESET clears the buffers, re-arms, and leaves everything else. That it keeps what the ring slots
hold is the model's choice (log entry 17): rule R43 gives the slots no value there. -/
def Obligations.ResetClearsTheEngine : Prop :=
  encode .reset = [0x21, 0, 0, 0] ∧ ∀ s : State, Admitted .reset s → exec .reset s = .next { cleared s with fgPc := s.fgPc + 1 }

/-- Rule R345: a second RESET leaves the engine as one does; only the call log, the position and nothing else differ
(the ring slots too: log entry 17). -/
def Obligations.ResetIsIdempotent : Prop :=
  ∀ s t u : State, Admitted .reset s → exec .reset s = .next t → exec .reset t = .next u →
    u = { t with log := { t.log with calllog := t.log.calllog ++ rearmEvents }, fgPc := t.fgPc + 1 }

/-- Rule R183: POP_MESSAGE on an empty ring, and on one that holds a message. -/
def Obligations.PopReturnsTheOldest : Prop :=
  encode .popMessage = [0x22, 0, 0, 0] ∧ ∀ s : State, Admitted .popMessage s →
    (s.ring.count = 0 →
      exec .popMessage s =
        .next { s with
          log := { s.log with returns := s.log.returns ++ [.message none] }
          fgPc := s.fgPc + 1 }) ∧
    (∀ m, 0 < s.ring.count → s.ring.slots[s.ring.tail]? = some m →
      exec .popMessage s =
        .next { s with
          ring := { s.ring with
            tail := (s.ring.tail + 1) % s.cfg.ringCapacity
            count := s.ring.count - 1 }
          resp := if s.cfg.popClearsResponse then { bytes := [], length := 0, cursor := 0, pending := false } else s.resp
          log := { s.log with returns := s.log.returns ++ [.message (some m)] }
          fgPc := s.fgPc + 1 })

/-- Rule R184: SET_RESPONSE with no byte, within the response buffer, and past it. The result of the first is a draw:
the statement fixes none. -/
def Obligations.SetResponseStagesItsBytes : Prop :=
  ∀ data : List Byte, encode (.setResponse data) = [0x23, 0, BitVec.ofNat 8 data.length, 0] ++ data ∧
   ∀ s : State, Admitted (.setResponse data) s → data.length ≤ 255 →
    (data = [] →
      ∃ any, exec (.setResponse data) s =
        .next { s with
          resp := { bytes := [], length := 0, cursor := 0, pending := false }
          log := { s.log with returns := s.log.returns ++ [.accepted any] }
          env := { s.env with drawn := s.env.drawn + 1 }
          fgPc := s.fgPc + 1 }) ∧
    (data ≠ [] → s.cfg.respMax < data.length →
      exec (.setResponse data) s =
        .next { s with
          log := { s.log with returns := s.log.returns ++ [.accepted false] }
          fgPc := s.fgPc + 1 }) ∧
    (data ≠ [] → data.length ≤ s.cfg.respMax →
      exec (.setResponse data) s =
        .next { s with
          resp := { bytes := data, length := data.length, cursor := 0, pending := true }
          log := { s.log with returns := s.log.returns ++ [.accepted true] }
          fgPc := s.fgPc + 1 })

/-- Rule R185: GET_RESPONSE returns the whole response, or none, and writes nothing. -/
def Obligations.GetResponseReturnsTheWhole : Prop :=
  encode .getResponse = [0x24, 0, 0, 0] ∧ ∀ s : State, Admitted .getResponse s →
    exec .getResponse s =
      .next { s with
        log := { s.log with returns := s.log.returns ++
          [if s.resp.pending then .response true s.resp.bytes s.resp.length else .response false [] 0] }
        fgPc := s.fgPc + 1 }

/-- Rule R186: CLEAR_RESPONSE writes the four response fields and nothing else. -/
def Obligations.ClearResponseEmptiesIt : Prop :=
  encode .clearResponse = [0x25, 0, 0, 0] ∧ ∀ s : State, Admitted .clearResponse s →
    exec .clearResponse s =
      .next { s with
        resp := { bytes := [], length := 0, cursor := 0, pending := false }
        fgPc := s.fgPc + 1 }

/-- Rule R32: only INIT writes `cb` and `life`, and no operation makes a ready engine `Uninit` again. -/
def Obligations.OnlyInitWritesLifeAndCallback : Prop :=
  ∀ s t : State, step s = .next t →
    (s.life = .ready → t.life = .ready) ∧
    ((t.life ≠ s.life ∨ t.cb ≠ s.cb) → ∃ c rest, decode s.env.fgStream = .ok (.init c, rest) ∧ t.cb = c)

/-! ### The ring as a queue -/

/-- Rules R80 and R149: a message ON_STOP enqueues goes to the end of the queue, and POP_MESSAGE returns the one at its
front and leaves the rest in order. -/
def Obligations.RingIsFirstInFirstOut : Prop :=
  (∀ (flags : Flags) (s : State), s.Inv → s.life = .ready → s.frame.receiving = true →
    (s.frame.bytes ≠ [] ∨ s.cfg.enqueueEmpty = true) → s.ring.count < s.cfg.ringCapacity →
    ∃ t, exec (.onStop flags) { s with ctx := .irq } = .next t ∧
      t.queue = s.queue ++
        [{ bytes := s.frame.bytes, length := s.frame.bytes.length, flags, ts := s.drawNow.1 }]) ∧
  (∀ (s : State) (m : Message) (rest : List Message), s.Inv → s.life = .ready → s.queue = m :: rest →
    ∃ t, exec .popMessage s = .next t ∧ t.queue = rest ∧ t.log.returns = s.log.returns ++ [.message (some m)])

/-- Rules R34 and R80: whatever a step does, the queue stays as it is, gains one message at its end, loses the one at
its front, or is emptied: no queued message is overwritten or overtaken. -/
def Obligations.QueueKeepsItsOrder : Prop :=
  ∀ s t : State, s.Inv → step s = .next t →
    t.queue = s.queue ∨ (∃ m, t.queue = s.queue ++ [m]) ∨ t.queue = s.queue.tail ∨ t.queue = []

/-! ### Master operations -/

/-- Rules R260 and R114: the 7-bit form of a supplied address, and the two address bytes made of it. -/
def Obligations.NormAndAddressByte : Prop :=
  (∀ a : Byte, (normAddr a).toNat = if 0x7F < a.toNat then a.toNat / 2 else a.toNat) ∧
  (∀ a : BusAddr, (addressW a).toNat = 2 * a.toNat ∧ (addressR a).toNat = 2 * a.toNat + 1)

/-- Rule R267: the chunks cover the payload in order, each takes at least one byte and at most what its page has room
for, every chunk but the last fills its page, and, where the page size divides the address space, every chunk but the first starts on a page boundary. -/
def Obligations.ChunksRespectPages : Prop :=
  ∀ (pageSize : Nat) (mem : DevAddr) (data : List Byte), 1 ≤ pageSize →
    ((chunks pageSize mem data.length).flatMap (fun c => (data.drop c.off).take c.n) = data) ∧
    (∀ c ∈ chunks pageSize mem data.length,
      1 ≤ c.n ∧ c.off + c.n ≤ data.length ∧ c.m.toNat = (mem.toNat + c.off) % 2 ^ 16 ∧
        c.m.toNat % pageSize + c.n ≤ pageSize) ∧
    (∀ c ∈ (chunks pageSize mem data.length).dropLast, c.m.toNat % pageSize + c.n = pageSize) ∧
    (pageSize ∣ 2 ^ 16 → ∀ c ∈ (chunks pageSize mem data.length).tail, c.m.toNat % pageSize = 0)

/-- Rule R221: `Line` and `Sample` while the master owns the lines, and `Delay` anywhere, as atomic steps of a running
operation; a Sample goes to `ok` for the acknowledge bit and to its bit of `x` for a data bit. -/
def Obligations.PrimitivesHaveTheirEffect : Prop :=
  ∀ (q : Seq) (p : Prim) (rest : List Prim) (s : State), rest ≠ [] →
    (∀ d, s.master.owns = true → masterStep { q with todo := .line .scl d :: rest } s =
      .next { s with
        lines := { s.lines with drvScl := d }
        log := { s.log with calllog := s.log.calllog ++ [.line .scl d] }
        master := { s.master with seq := some { q with todo := rest } } }) ∧
    (∀ d, s.master.owns = true → masterStep { q with todo := .line .sda d :: rest } s =
      .next { s with
        lines := { s.lines with drvSda := d }
        log := { s.log with calllog := s.log.calllog ++ [.line .sda d] }
        master := { s.master with seq := some { q with todo := rest } } }) ∧
    masterStep { q with todo := .delay :: rest } s =
      .next { s with
        log := { s.log with calllog := s.log.calllog ++ [.delay] }
        master := { s.master with seq := some { q with todo := rest } } } ∧
    (s.master.owns = true → s.lines.drvSda = .low → masterStep { q with todo := .sampleAck :: rest } s =
      .next { s with
        log := { s.log with calllog := s.log.calllog ++ [.sample false] }
        master := { s.master with seq := some { q with todo := rest, ok := true } } }) ∧
    (∀ v draws, s.master.owns = true → s.lines.drvSda = .rel → s.env.sda = v :: draws →
      masterStep { q with todo := .sampleAck :: rest } s =
        .next { s with
          log := { s.log with calllog := s.log.calllog ++ [.sample v] }
          env := { s.env with sda := draws }
          master := { s.master with seq := some { q with todo := rest, ok := !v } } }) ∧
    (∀ i, s.master.owns = true → s.lines.drvSda = .low → masterStep { q with todo := .sampleBit i :: rest } s =
      .next { s with
        log := { s.log with calllog := s.log.calllog ++ [.sample false] }
        master := { s.master with seq := some { q with todo := rest, rx := putBit q.rx i false } } }) ∧
    (∀ i v draws, s.master.owns = true → s.lines.drvSda = .rel → s.env.sda = v :: draws →
      masterStep { q with todo := .sampleBit i :: rest } s =
        .next { s with
          log := { s.log with calllog := s.log.calllog ++ [.sample v] }
          env := { s.env with sda := draws }
          master := { s.master with seq := some { q with todo := rest, rx := putBit q.rx i v } } }) ∧
    ((∃ l d, p = .line l d) ∨ p = .sampleAck ∨ (∃ i, p = .sampleBit i) → s.master.owns = false →
      masterStep { q with todo := p :: rest } s = .fault .lineNotOwned)

/-- Rule R261: a zero length returns failure, with no bus activity, for each of the five operations. -/
def Obligations.ZeroLengthsFail : Prop :=
  ∀ (a n : Byte) (mem : DevAddr) (tx : List Byte) (s : State), s.ctx = .fg → s.master.seq = none →
    exec (.mWrite a []) s =
      .next { s with log := { s.log with returns := s.log.returns ++ [.done false] }, fgPc := s.fgPc + 1 } ∧
    exec (.devWrite mem []) s =
      .next { s with log := { s.log with returns := s.log.returns ++ [.done false] }, fgPc := s.fgPc + 1 } ∧
    (∃ any, exec (.mRead a 0) s =
      .next { s with
        log := { s.log with returns := s.log.returns ++ [.data false any] }
        env := { s.env with drawn := s.env.drawn + 1 }
        fgPc := s.fgPc + 1 }) ∧
    (∃ any, exec (.devRead mem 0) s =
      .next { s with
        log := { s.log with returns := s.log.returns ++ [.data false any] }
        env := { s.env with drawn := s.env.drawn + 1 }
        fgPc := s.fgPc + 1 }) ∧
    (tx.length ≤ 255 → (tx = [] ∨ n = 0) → ∃ any, exec (.mWriteRead a tx n) s =
      .next { s with
        log := { s.log with returns := s.log.returns ++ [.data false any] }
        env := { s.env with drawn := s.env.drawn + 1 }
        fgPc := s.fgPc + 1 })

/-- Rule R262: run without interruption, the atomic steps of an M_WRITE append exactly the log of its pseudocode, return
its result, and leave everything else as it was, for every answer the bus device gives. -/
def Obligations.MasterWriteRunsItsPseudocode : Prop :=
  ∀ (a : Byte) (data : List Byte) (s : State) (ok : Bool) (b : Bus), s.ctx = .fg → data ≠ [] → data.length ≤ 255 →
    Bus.mWrite { draws := s.env.sda, log := s.log.calllog } (normAddr a) data = some (ok, b) →
    ∃ t, exec (.mWrite a data) s = .next t ∧
      runMaster (b.log.length - s.log.calllog.length - 1) t =
        .next { restored s with
          log := { s.log with calllog := b.log, returns := s.log.returns ++ [.done ok] }
          env := { s.env with sda := b.draws }
          fgPc := s.fgPc + 1 }

/-- Rule R263: the same of an M_READ. The bytes of a failed read are any bytes. -/
def Obligations.MasterReadRunsItsPseudocode : Prop :=
  ∀ (a n : Byte) (s : State) (ok : Bool) (buf : List Byte) (b : Bus), s.ctx = .fg → n ≠ 0 →
    Bus.mRead { draws := s.env.sda, log := s.log.calllog } (normAddr a) n.toNat = some (ok, buf, b) →
    ∃ t any, exec (.mRead a n) s = .next t ∧
      runMaster (b.log.length - s.log.calllog.length - 1) t =
        .next { restored s with
          log := { s.log with
            calllog := b.log
            returns := s.log.returns ++ [if ok then .data true buf else .data false any] }
          env := { s.env with sda := b.draws, drawn := if ok then s.env.drawn else s.env.drawn + 1 }
          fgPc := s.fgPc + 1 }

/-- Rule R264: the same of an M_WRITE_READ. -/
def Obligations.MasterWriteReadRunsItsPseudocode : Prop :=
  ∀ (a : Byte) (tx : List Byte) (n : Byte) (s : State) (ok : Bool) (buf : List Byte) (b : Bus), s.ctx = .fg →
    tx ≠ [] → tx.length ≤ 255 → n ≠ 0 →
    Bus.writeRead { draws := s.env.sda, log := s.log.calllog } (normAddr a) tx n.toNat = some (ok, buf, b) →
    ∃ t any, exec (.mWriteRead a tx n) s = .next t ∧
      runMaster (b.log.length - s.log.calllog.length - 1) t =
        .next { restored s with
          log := { s.log with
            calllog := b.log
            returns := s.log.returns ++ [if ok then .data true buf else .data false any] }
          env := { s.env with sda := b.draws, drawn := if ok then s.env.drawn else s.env.drawn + 1 }
          fgPc := s.fgPc + 1 }

/-- Rules R268, R265 and R266: the same of a DEV_WRITE, chunk by chunk with its ready-polling. -/
def Obligations.DevWriteRunsItsPseudocode : Prop :=
  ∀ (mem : DevAddr) (data : List Byte) (s : State) (ok : Bool) (b : Bus), s.ctx = .fg → data ≠ [] →
    data.length ≤ 255 →
    Bus.devWrite s.cfg.eepromAddr s.cfg.probeMax
      ((chunks s.cfg.pageSize mem data.length).map (fun c => hiByte c.m :: loByte c.m :: (data.drop c.off).take c.n))
      { draws := s.env.sda, log := s.log.calllog } = some (ok, b) →
    ∃ t, exec (.devWrite mem data) s = .next t ∧
      runMaster (b.log.length - s.log.calllog.length - 1) t =
        .next { restored s with
          log := { s.log with calllog := b.log, returns := s.log.returns ++ [.done ok] }
          env := { s.env with sda := b.draws }
          fgPc := s.fgPc + 1 }

/-- Rule R269: the same of a DEV_READ: one WriteReadBody with the big-endian address as its write phase. -/
def Obligations.DevReadRunsItsPseudocode : Prop :=
  ∀ (mem : DevAddr) (n : Byte) (s : State) (ok : Bool) (buf : List Byte) (b : Bus), s.ctx = .fg → n ≠ 0 →
    Bus.writeRead { draws := s.env.sda, log := s.log.calllog } s.cfg.eepromAddr [hiByte mem, loByte mem] n.toNat =
      some (ok, buf, b) →
    ∃ t any, exec (.devRead mem n) s = .next t ∧
      runMaster (b.log.length - s.log.calllog.length - 1) t =
        .next { restored s with
          log := { s.log with
            calllog := b.log
            returns := s.log.returns ++ [if ok then .data true buf else .data false any] }
          env := { s.env with sda := b.draws, drawn := if ok then s.env.drawn else s.env.drawn + 1 }
          fgPc := s.fgPc + 1 }

/-- Rule R272: from every state of the invariant a master operation ends, whatever the bus device answers, and appends
to the call log at most as many entries as its operands allow. -/
def Obligations.MasterOperationsEndInBound : Prop :=
  ∀ (i : Instr) (s : State), s.Inv → s.master.seq = none → isMaster i = true → i.wf = true →
    ∃ t u, exec i s = .next t ∧ runMaster (opBound s.cfg i) t = .next u ∧ u.master.seq = none ∧
      u.fgPc = s.fgPc + 1 ∧ u.log.calllog.length ≤ s.log.calllog.length + opBound s.cfg i

/-- Rule R272: every atomic step of a running master operation appends one entry to the call log, and either ends the
operation or leaves less of it to do. -/
def Obligations.MasterStepsComeNearerTheEnd : Prop :=
  ∀ (q : Seq) (s t : State), q.todo ≠ [] → masterStep q s = .next t →
    (∃ e, t.log.calllog = s.log.calllog ++ [e]) ∧
    (∀ q', t.master.seq = some q' → q'.bound t.cfg < q.bound s.cfg)

/-- Rule R271: no step of a master operation writes the engine's frame, ring or response, nor the error log, nor what
belongs to the interrupt context. -/
def Obligations.MasterStepsLeaveTheEngine : Prop :=
  (∀ (q : Seq) (s t : State), s.ctx = .fg → masterStep q s = .next t →
    t.frame = s.frame ∧ t.ring = s.ring ∧ t.resp = s.resp ∧ t.log.errlog = s.log.errlog ∧ t.life = s.life ∧
      t.cb = s.cb ∧ t.irqPc = s.irqPc ∧ t.env.irqStream = s.env.irqStream) ∧
  (∀ (i : Instr) (s t : State), isMaster i = true → s.ctx = .fg → exec i s = .next t →
    t.frame = s.frame ∧ t.ring = s.ring ∧ t.resp = s.resp ∧ t.log.errlog = s.log.errlog ∧ t.life = s.life ∧
      t.cb = s.cb ∧ t.irqPc = s.irqPc ∧ t.env.irqStream = s.env.irqStream)

/-- Rules R222, R223 and R343: the snapshot is the configuration at Begin, it stays what it is until End, End restores
it, and between transactions no step changes the configuration, whatever the interrupt context does in between. -/
def Obligations.SnapshotIsRestored : Prop :=
  ∀ s t : State, s.Inv → step s = .next t →
    (s.master.owns = false → t.master.owns = false →
      t.lines.cfgScl = s.lines.cfgScl ∧ t.lines.cfgSda = s.lines.cfgSda) ∧
    (s.master.owns = false → t.master.owns = true → t.master.snap = some (s.lines.cfgScl, s.lines.cfgSda)) ∧
    (s.master.owns = true → t.master.owns = true → t.master.snap = s.master.snap) ∧
    (s.master.owns = true → t.master.owns = false → s.master.snap = some (t.lines.cfgScl, t.lines.cfgSda))

/-! ### The whole machine -/

/-- Rule R340: the values the spec gives the machine at power-on. -/
def Obligations.PowerOnValues : Prop :=
  State.reset.life = .uninit ∧ State.reset.master = { owns := false, snap := none, seq := none } ∧
  State.reset.lines = { cfgScl := Config.cfg0, cfgSda := Config.cfg0, drvScl := .rel, drvSda := .rel } ∧
  State.reset.fgPc = 0 ∧ State.reset.irqPc = 0 ∧ State.reset.ctx = .fg ∧
  State.reset.log = { errlog := [], calllog := [], faults := [], refused := none, returns := [] } ∧
  State.reset.cfg = Params.reference

/-- The invariant holds at power-on; for the engine fields before INIT it rests on log entry 4. -/
def Obligations.InvariantAtPowerOn : Prop := State.reset.Inv

/-- Rules R33, R34, R35, R37, R40, R312 and R343: every step keeps the invariant. -/
def Obligations.StepKeepsTheInvariant : Prop := ∀ s t : State, s.Inv → step s = .next t → t.Inv

/-- Rules R10 and R303: no state of the invariant stops the machine: every step answers a next state. -/
def Obligations.StepNeverStops : Prop := ∀ s : State, s.Inv → ∃ t, step s = .next t

/-- Rule R41: the logs, the fault bits and the refusal are never cleared by any step, and only grow. -/
def Obligations.LogsOnlyGrow : Prop := ∀ s t : State, step s = .next t → LogGrows s t

/-- Rules R44 and R84: no step writes the configuration, and the streams are only consumed, from their front. -/
def Obligations.ConfigurationAndStreamsAreNotWritten : Prop :=
  ∀ s t : State, step s = .next t →
    t.cfg = s.cfg ∧ t.env.fgStream <:+ s.env.fgStream ∧ t.env.irqStream <:+ s.env.irqStream

/-- Rule R36: a step that does anything advances exactly one position by one, or performs one step of a master operation
that goes on; and no foreground operation is issued while one runs. -/
def Obligations.PositionsAdvanceByOne : Prop :=
  ∀ s t : State, step s = .next t → s.chooseAgent ≠ none →
    (t.irqPc = s.irqPc + 1 ∧ t.fgPc = s.fgPc) ∨
    (t.irqPc = s.irqPc ∧ t.fgPc = s.fgPc + 1 ∧ t.master.seq = none) ∨
    (t.irqPc = s.irqPc ∧ t.fgPc = s.fgPc ∧ t.master.seq.isSome = true ∧
      (s.master.seq.isSome = true → t.env.fgStream = s.env.fgStream))

/-- The schedule (log entry 10): where both agents have a step, the one it names takes it, and where it names none one of
the two does; where one alone has a step, that one does; the schedule moves on by one turn and nothing else changes, but
for the count of free values where the choice was free. Where neither has a step, the state stays as it is (log entry
11). -/
def Obligations.ScheduleNamesTheAgent : Prop :=
  ∀ s : State,
    (∀ a rest, s.fgReady = true → s.irqReady = true → s.env.turns = a :: rest →
      s.chooseAgent = some (a, { s with env := { s.env with turns := rest } })) ∧
    (s.fgReady = true → s.irqReady = true → s.env.turns = [] →
      ∃ a, s.chooseAgent = some (a, { s with env := { s.env with drawn := s.env.drawn + 1 } })) ∧
    (s.fgReady = true → s.irqReady = false →
      s.chooseAgent = some (.fg, { s with env := { s.env with turns := s.env.turns.drop 1 } })) ∧
    (s.fgReady = false → s.irqReady = true →
      s.chooseAgent = some (.irq, { s with env := { s.env with turns := s.env.turns.drop 1 } })) ∧
    (s.fgReady = false → s.irqReady = false → step s = .next s)

/-- Rules R36 and R100: the agent that takes the step, with no master operation running if it is the foreground, issues the
operation its stream's next record decodes to: `step` is `exec` of it, in that agent's context, with the record consumed. -/
def Obligations.StepRunsTheDecodedOperation : Prop :=
  ∀ (s s' : State) (i : Instr) (rest : List Byte),
    (s.chooseAgent = some (.irq, s') → decode s'.env.irqStream = .ok (i, rest) →
      step s = exec i { s' with ctx := .irq, env := { s'.env with irqStream := rest } }) ∧
    (s.chooseAgent = some (.fg, s') → s'.master.seq = none → decode s'.env.fgStream = .ok (i, rest) →
      step s = exec i { s' with ctx := .fg, env := { s'.env with fgStream := rest } })

/-- Rule R110 (and log entry 6 for what is consumed): a record the decoder refuses sets the mark `DECODE`, advances the
position and has no other effect. -/
def Obligations.RefusedRecordsAreMarked : Prop :=
  ∀ (s s' : State) (e : DecodeError),
    (s.chooseAgent = some (.irq, s') → decode s'.env.irqStream = .error e →
      step s = .next { s' with
        log := { s'.log with refused := s'.log.refused.or (some .decode) }
        env := { s'.env with irqStream := s'.env.irqStream.drop (recordLength s'.env.irqStream) }
        irqPc := s'.irqPc + 1
        ctx := .fg }) ∧
    (s.chooseAgent = some (.fg, s') → s'.master.seq = none → decode s'.env.fgStream = .error e →
      step s = .next { s' with
        log := { s'.log with refused := s'.log.refused.or (some .decode) }
        env := { s'.env with fgStream := s'.env.fgStream.drop (recordLength s'.env.fgStream) }
        fgPc := s'.fgPc + 1
        ctx := .fg })

/-- Rules R36 and R233: while a master operation runs, the foreground's step is its next atomic step. -/
def Obligations.StepResumesTheMaster : Prop :=
  ∀ (s s' : State) (q : Seq), s.chooseAgent = some (.fg, s') → s.master.seq = some q →
    step s = masterStep q { s' with ctx := .fg }

/-- Rule R122: each pseudo-instruction's expansion assembles to the records of the callbacks it stands for. -/
def Obligations.PseudoInstructionsExpand : Prop :=
  ∀ (data : List Byte) (flags : Flags) (n : Nat),
    assemble (pseudoFrame data flags) =
      [0x10, 0, 0, 0] ++ data.flatMap (fun b => [0x11, 0, 0, b]) ++ [0x12, 0, hiByte flags, loByte flags] ∧
    assemble (pseudoTicks n) = (List.replicate n [0x14, 0, 0, 0]).flatten
end

