-- ==== Sys2Proof/Laws/Decode.lean ====
section
/-! SUPPORT. The byte order of the encodings, and the records of operations: their lengths, and their opcodes. -/

namespace Sys2Proof

/-- A 16-bit word is its two bytes. -/
@[simp] theorem word16_bytes (v : BitVec 16) : word16 (hiByte v) (loByte v) = v := by
  apply BitVec.eq_of_toNat_eq
  have h := v.isLt
  rw [word16, BitVec.toNat_append, Nat.shiftLeft_eq, Nat.mul_comm, ← Nat.two_pow_add_eq_or_of_lt (loByte v).isLt]
  simp [hiByte, loByte, BitVec.extractLsb'_toNat, Nat.shiftRight_eq_div_pow]
  omega

theorem word16_toNat (hi lo : Byte) : (word16 hi lo).toNat = 256 * hi.toNat + lo.toNat := by
  rw [word16, BitVec.toNat_append, Nat.shiftLeft_eq, Nat.mul_comm, ← Nat.two_pow_add_eq_or_of_lt lo.isLt]

/-- The first byte on the wire is the high one. -/
@[simp] theorem hiByte_word16 (hi lo : Byte) : hiByte (word16 hi lo) = hi := by
  apply BitVec.eq_of_toNat_eq
  have h := hi.isLt
  have h' := lo.isLt
  simp only [hiByte, BitVec.extractLsb'_toNat, Nat.shiftRight_eq_div_pow, word16_toNat]
  omega

@[simp] theorem loByte_word16 (hi lo : Byte) : loByte (word16 hi lo) = lo := by
  apply BitVec.eq_of_toNat_eq
  have h' := lo.isLt
  simp only [loByte, BitVec.extractLsb'_toNat, Nat.shiftRight_eq_div_pow, word16_toNat]
  omega

/-- A payload that fits has its length in its length field. -/
theorem lengthByte_toNat (data : List Byte) (h : data.length ≤ 255) : (lengthByte data).toNat = data.length := by
  simp only [lengthByte, BitVec.toNat_ofNat]
  omega

/-- A length field is the length field of the payload it names. -/
theorem lengthByte_take (n : Byte) (rest : List Byte) (h : n.toNat ≤ rest.length) :
    lengthByte (rest.take n.toNat) = n := by
  apply BitVec.eq_of_toNat_eq
  have h' := n.isLt
  simp only [lengthByte, BitVec.toNat_ofNat, List.length_take]
  omega

theorem payloadFits_iff (data : List Byte) : payloadFits data = true ↔ data.length ≤ 255 :=
  decide_eq_true_iff

/-- Everything a record without a payload can answer. -/
theorem plainRecord_ok (zeros : Bool) (i j : Instr) (rest rest' : List Byte) :
    plainRecord zeros i rest = .ok (j, rest') ↔ zeros = true ∧ j = i ∧ rest' = rest := by
  cases zeros <;> simp [plainRecord, eq_comm]

/-- Everything a record with a payload can answer. -/
theorem payloadRecord_ok (zeros : Bool) (len : Byte) (mk : List Byte → Instr) (j : Instr) (rest rest' : List Byte) :
    payloadRecord zeros len mk rest = .ok (j, rest') ↔
      zeros = true ∧ len.toNat ≤ rest.length ∧ j = mk (rest.take len.toNat) ∧ rest' = rest.drop len.toNat := by
  cases zeros <;> simp [payloadRecord]
  split <;> simp [eq_comm] <;> omega

end Sys2Proof
end

