-- ==== Sys2Proof/Laws/State.lean ====
section
/-! SUPPORT. For each named operation over the state, what it does to each field: one lemma per field, so that a proof
need not unfold a record update. -/

namespace Sys2Proof.Machine

/-! ### countDraw -/

@[simp] theorem State.countDraw_cfg (s : State) : s.countDraw.cfg = s.cfg :=
  rfl
@[simp] theorem State.countDraw_life (s : State) : s.countDraw.life = s.life :=
  rfl
@[simp] theorem State.countDraw_cb (s : State) : s.countDraw.cb = s.cb :=
  rfl
@[simp] theorem State.countDraw_frame (s : State) : s.countDraw.frame = s.frame :=
  rfl
@[simp] theorem State.countDraw_ring (s : State) : s.countDraw.ring = s.ring :=
  rfl
@[simp] theorem State.countDraw_resp (s : State) : s.countDraw.resp = s.resp :=
  rfl
@[simp] theorem State.countDraw_lines (s : State) : s.countDraw.lines = s.lines :=
  rfl
@[simp] theorem State.countDraw_master (s : State) : s.countDraw.master = s.master :=
  rfl
@[simp] theorem State.countDraw_fgPc (s : State) : s.countDraw.fgPc = s.fgPc :=
  rfl
@[simp] theorem State.countDraw_irqPc (s : State) : s.countDraw.irqPc = s.irqPc :=
  rfl
@[simp] theorem State.countDraw_ctx (s : State) : s.countDraw.ctx = s.ctx :=
  rfl
@[simp] theorem State.countDraw_log (s : State) : s.countDraw.log = s.log :=
  rfl
@[simp] theorem State.countDraw_env (s : State) : s.countDraw.env = { s.env with drawn := s.env.drawn + 1 } :=
  rfl

/-! ### logEvent -/

@[simp] theorem State.logEvent_cfg (s : State) (e : Event) : (s.logEvent e).cfg = s.cfg :=
  rfl
@[simp] theorem State.logEvent_life (s : State) (e : Event) : (s.logEvent e).life = s.life :=
  rfl
@[simp] theorem State.logEvent_cb (s : State) (e : Event) : (s.logEvent e).cb = s.cb :=
  rfl
@[simp] theorem State.logEvent_frame (s : State) (e : Event) : (s.logEvent e).frame = s.frame :=
  rfl
@[simp] theorem State.logEvent_ring (s : State) (e : Event) : (s.logEvent e).ring = s.ring :=
  rfl
@[simp] theorem State.logEvent_resp (s : State) (e : Event) : (s.logEvent e).resp = s.resp :=
  rfl
@[simp] theorem State.logEvent_lines (s : State) (e : Event) : (s.logEvent e).lines = s.lines :=
  rfl
@[simp] theorem State.logEvent_master (s : State) (e : Event) : (s.logEvent e).master = s.master :=
  rfl
@[simp] theorem State.logEvent_fgPc (s : State) (e : Event) : (s.logEvent e).fgPc = s.fgPc :=
  rfl
@[simp] theorem State.logEvent_irqPc (s : State) (e : Event) : (s.logEvent e).irqPc = s.irqPc :=
  rfl
@[simp] theorem State.logEvent_ctx (s : State) (e : Event) : (s.logEvent e).ctx = s.ctx :=
  rfl
@[simp] theorem State.logEvent_log (s : State) (e : Event) : (s.logEvent e).log = { s.log with calllog := s.log.calllog ++ [e] } :=
  rfl
@[simp] theorem State.logEvent_env (s : State) (e : Event) : (s.logEvent e).env = s.env :=
  rfl

/-! ### logCall -/

@[simp] theorem State.logCall_cfg (s : State) (c : Call) : (s.logCall c).cfg = s.cfg :=
  rfl
@[simp] theorem State.logCall_life (s : State) (c : Call) : (s.logCall c).life = s.life :=
  rfl
@[simp] theorem State.logCall_cb (s : State) (c : Call) : (s.logCall c).cb = s.cb :=
  rfl
@[simp] theorem State.logCall_frame (s : State) (c : Call) : (s.logCall c).frame = s.frame :=
  rfl
@[simp] theorem State.logCall_ring (s : State) (c : Call) : (s.logCall c).ring = s.ring :=
  rfl
@[simp] theorem State.logCall_resp (s : State) (c : Call) : (s.logCall c).resp = s.resp :=
  rfl
@[simp] theorem State.logCall_lines (s : State) (c : Call) : (s.logCall c).lines = s.lines :=
  rfl
@[simp] theorem State.logCall_master (s : State) (c : Call) : (s.logCall c).master = s.master :=
  rfl
@[simp] theorem State.logCall_fgPc (s : State) (c : Call) : (s.logCall c).fgPc = s.fgPc :=
  rfl
@[simp] theorem State.logCall_irqPc (s : State) (c : Call) : (s.logCall c).irqPc = s.irqPc :=
  rfl
@[simp] theorem State.logCall_ctx (s : State) (c : Call) : (s.logCall c).ctx = s.ctx :=
  rfl
@[simp] theorem State.logCall_log (s : State) (c : Call) : (s.logCall c).log = { s.log with calllog := s.log.calllog ++ [.call c] } :=
  rfl
@[simp] theorem State.logCall_env (s : State) (c : Call) : (s.logCall c).env = s.env :=
  rfl

/-! ### give -/

@[simp] theorem State.give_cfg (s : State) (r : Return) : (s.give r).cfg = s.cfg :=
  rfl
@[simp] theorem State.give_life (s : State) (r : Return) : (s.give r).life = s.life :=
  rfl
@[simp] theorem State.give_cb (s : State) (r : Return) : (s.give r).cb = s.cb :=
  rfl
@[simp] theorem State.give_frame (s : State) (r : Return) : (s.give r).frame = s.frame :=
  rfl
@[simp] theorem State.give_ring (s : State) (r : Return) : (s.give r).ring = s.ring :=
  rfl
@[simp] theorem State.give_resp (s : State) (r : Return) : (s.give r).resp = s.resp :=
  rfl
@[simp] theorem State.give_lines (s : State) (r : Return) : (s.give r).lines = s.lines :=
  rfl
@[simp] theorem State.give_master (s : State) (r : Return) : (s.give r).master = s.master :=
  rfl
@[simp] theorem State.give_fgPc (s : State) (r : Return) : (s.give r).fgPc = s.fgPc :=
  rfl
@[simp] theorem State.give_irqPc (s : State) (r : Return) : (s.give r).irqPc = s.irqPc :=
  rfl
@[simp] theorem State.give_ctx (s : State) (r : Return) : (s.give r).ctx = s.ctx :=
  rfl
@[simp] theorem State.give_log (s : State) (r : Return) : (s.give r).log = { s.log with returns := s.log.returns ++ [r] } :=
  rfl
@[simp] theorem State.give_env (s : State) (r : Return) : (s.give r).env = s.env :=
  rfl

/-! ### refuse -/

@[simp] theorem State.refuse_cfg (s : State) (r : RefusalMark) : (s.refuse r).cfg = s.cfg :=
  rfl
@[simp] theorem State.refuse_life (s : State) (r : RefusalMark) : (s.refuse r).life = s.life :=
  rfl
@[simp] theorem State.refuse_cb (s : State) (r : RefusalMark) : (s.refuse r).cb = s.cb :=
  rfl
@[simp] theorem State.refuse_frame (s : State) (r : RefusalMark) : (s.refuse r).frame = s.frame :=
  rfl
@[simp] theorem State.refuse_ring (s : State) (r : RefusalMark) : (s.refuse r).ring = s.ring :=
  rfl
@[simp] theorem State.refuse_resp (s : State) (r : RefusalMark) : (s.refuse r).resp = s.resp :=
  rfl
@[simp] theorem State.refuse_lines (s : State) (r : RefusalMark) : (s.refuse r).lines = s.lines :=
  rfl
@[simp] theorem State.refuse_master (s : State) (r : RefusalMark) : (s.refuse r).master = s.master :=
  rfl
@[simp] theorem State.refuse_fgPc (s : State) (r : RefusalMark) : (s.refuse r).fgPc = s.fgPc :=
  rfl
@[simp] theorem State.refuse_irqPc (s : State) (r : RefusalMark) : (s.refuse r).irqPc = s.irqPc :=
  rfl
@[simp] theorem State.refuse_ctx (s : State) (r : RefusalMark) : (s.refuse r).ctx = s.ctx :=
  rfl
@[simp] theorem State.refuse_log (s : State) (r : RefusalMark) : (s.refuse r).log = { s.log with refused := s.log.refused.or (some r) } :=
  by simp only [State.refuse]; cases s.log.refused <;> rfl
@[simp] theorem State.refuse_env (s : State) (r : RefusalMark) : (s.refuse r).env = s.env :=
  rfl

/-! ### report -/

@[simp] theorem State.report_log (s : State) (k : ErrorKind) (f : Flags) (d : Bool) (ts : Timestamp) : (s.report k f d ts).log = reported s k f d ts :=
  by unfold State.report; split <;> simp_all [reported]
@[simp] theorem State.report_cfg (s : State) (k : ErrorKind) (f : Flags) (d : Bool) (ts : Timestamp) : (s.report k f d ts).cfg = s.cfg :=
  by unfold State.report; split <;> rfl
@[simp] theorem State.report_life (s : State) (k : ErrorKind) (f : Flags) (d : Bool) (ts : Timestamp) : (s.report k f d ts).life = s.life :=
  by unfold State.report; split <;> rfl
@[simp] theorem State.report_cb (s : State) (k : ErrorKind) (f : Flags) (d : Bool) (ts : Timestamp) : (s.report k f d ts).cb = s.cb :=
  by unfold State.report; split <;> rfl
@[simp] theorem State.report_frame (s : State) (k : ErrorKind) (f : Flags) (d : Bool) (ts : Timestamp) : (s.report k f d ts).frame = s.frame :=
  by unfold State.report; split <;> rfl
@[simp] theorem State.report_ring (s : State) (k : ErrorKind) (f : Flags) (d : Bool) (ts : Timestamp) : (s.report k f d ts).ring = s.ring :=
  by unfold State.report; split <;> rfl
@[simp] theorem State.report_resp (s : State) (k : ErrorKind) (f : Flags) (d : Bool) (ts : Timestamp) : (s.report k f d ts).resp = s.resp :=
  by unfold State.report; split <;> rfl
@[simp] theorem State.report_lines (s : State) (k : ErrorKind) (f : Flags) (d : Bool) (ts : Timestamp) : (s.report k f d ts).lines = s.lines :=
  by unfold State.report; split <;> rfl
@[simp] theorem State.report_master (s : State) (k : ErrorKind) (f : Flags) (d : Bool) (ts : Timestamp) : (s.report k f d ts).master = s.master :=
  by unfold State.report; split <;> rfl
@[simp] theorem State.report_fgPc (s : State) (k : ErrorKind) (f : Flags) (d : Bool) (ts : Timestamp) : (s.report k f d ts).fgPc = s.fgPc :=
  by unfold State.report; split <;> rfl
@[simp] theorem State.report_irqPc (s : State) (k : ErrorKind) (f : Flags) (d : Bool) (ts : Timestamp) : (s.report k f d ts).irqPc = s.irqPc :=
  by unfold State.report; split <;> rfl
@[simp] theorem State.report_ctx (s : State) (k : ErrorKind) (f : Flags) (d : Bool) (ts : Timestamp) : (s.report k f d ts).ctx = s.ctx :=
  by unfold State.report; split <;> rfl
@[simp] theorem State.report_env (s : State) (k : ErrorKind) (f : Flags) (d : Bool) (ts : Timestamp) : (s.report k f d ts).env = s.env :=
  by unfold State.report; split <;> rfl

/-! ### rearmCheck -/

@[simp] theorem State.rearmCheck_cfg (s : State) : s.rearmCheck.cfg = s.cfg :=
  by unfold State.rearmCheck; split <;> rfl
@[simp] theorem State.rearmCheck_life (s : State) : s.rearmCheck.life = s.life :=
  by unfold State.rearmCheck; split <;> rfl
@[simp] theorem State.rearmCheck_cb (s : State) : s.rearmCheck.cb = s.cb :=
  by unfold State.rearmCheck; split <;> rfl
@[simp] theorem State.rearmCheck_frame (s : State) : s.rearmCheck.frame = s.frame :=
  by unfold State.rearmCheck; split <;> rfl
@[simp] theorem State.rearmCheck_ring (s : State) : s.rearmCheck.ring = s.ring :=
  by unfold State.rearmCheck; split <;> rfl
@[simp] theorem State.rearmCheck_resp (s : State) : s.rearmCheck.resp = s.resp :=
  by unfold State.rearmCheck; split <;> rfl
@[simp] theorem State.rearmCheck_lines (s : State) : s.rearmCheck.lines = s.lines :=
  by unfold State.rearmCheck; split <;> rfl
@[simp] theorem State.rearmCheck_master (s : State) : s.rearmCheck.master = s.master :=
  by unfold State.rearmCheck; split <;> rfl
@[simp] theorem State.rearmCheck_fgPc (s : State) : s.rearmCheck.fgPc = s.fgPc :=
  by unfold State.rearmCheck; split <;> rfl
@[simp] theorem State.rearmCheck_irqPc (s : State) : s.rearmCheck.irqPc = s.irqPc :=
  by unfold State.rearmCheck; split <;> rfl
@[simp] theorem State.rearmCheck_ctx (s : State) : s.rearmCheck.ctx = s.ctx :=
  by unfold State.rearmCheck; split <;> rfl
@[simp] theorem State.rearmCheck_log (s : State) : s.rearmCheck.log = { s.log with faults := faultsAfterRearm s } :=
  by unfold State.rearmCheck faultsAfterRearm State.raiseFault; split <;> simp_all
@[simp] theorem State.rearmCheck_env (s : State) : s.rearmCheck.env = s.env :=
  by unfold State.rearmCheck; split <;> rfl

/-! ### rearm -/

@[simp] theorem State.rearm_cfg (s : State) : s.rearm.cfg = s.cfg :=
  by simp [State.rearm]
@[simp] theorem State.rearm_life (s : State) : s.rearm.life = s.life :=
  by simp [State.rearm]
@[simp] theorem State.rearm_cb (s : State) : s.rearm.cb = s.cb :=
  by simp [State.rearm]
@[simp] theorem State.rearm_frame (s : State) : s.rearm.frame = s.frame :=
  by simp [State.rearm]
@[simp] theorem State.rearm_ring (s : State) : s.rearm.ring = s.ring :=
  by simp [State.rearm]
@[simp] theorem State.rearm_resp (s : State) : s.rearm.resp = s.resp :=
  by simp [State.rearm]
@[simp] theorem State.rearm_lines (s : State) : s.rearm.lines = s.lines :=
  by simp [State.rearm]
@[simp] theorem State.rearm_master (s : State) : s.rearm.master = s.master :=
  by simp [State.rearm]
@[simp] theorem State.rearm_fgPc (s : State) : s.rearm.fgPc = s.fgPc :=
  by simp [State.rearm]
@[simp] theorem State.rearm_irqPc (s : State) : s.rearm.irqPc = s.irqPc :=
  by simp [State.rearm]
@[simp] theorem State.rearm_ctx (s : State) : s.rearm.ctx = s.ctx :=
  by simp [State.rearm]
@[simp] theorem State.rearm_log (s : State) : s.rearm.log = { s.log with calllog := s.log.calllog ++ rearmEvents, faults := faultsAfterRearm s } :=
  by simp [State.rearm, rearmEvents]
@[simp] theorem State.rearm_env (s : State) : s.rearm.env = s.env :=
  by simp [State.rearm]

/-! ### clearFrame -/

@[simp] theorem State.clearFrame_cfg (s : State) : s.clearFrame.cfg = s.cfg :=
  rfl
@[simp] theorem State.clearFrame_life (s : State) : s.clearFrame.life = s.life :=
  rfl
@[simp] theorem State.clearFrame_cb (s : State) : s.clearFrame.cb = s.cb :=
  rfl
@[simp] theorem State.clearFrame_frame (s : State) : s.clearFrame.frame = { receiving := false, bytes := [], ticks := 0 } :=
  rfl
@[simp] theorem State.clearFrame_ring (s : State) : s.clearFrame.ring = s.ring :=
  rfl
@[simp] theorem State.clearFrame_resp (s : State) : s.clearFrame.resp = s.resp :=
  rfl
@[simp] theorem State.clearFrame_lines (s : State) : s.clearFrame.lines = s.lines :=
  rfl
@[simp] theorem State.clearFrame_master (s : State) : s.clearFrame.master = s.master :=
  rfl
@[simp] theorem State.clearFrame_fgPc (s : State) : s.clearFrame.fgPc = s.fgPc :=
  rfl
@[simp] theorem State.clearFrame_irqPc (s : State) : s.clearFrame.irqPc = s.irqPc :=
  rfl
@[simp] theorem State.clearFrame_ctx (s : State) : s.clearFrame.ctx = s.ctx :=
  rfl
@[simp] theorem State.clearFrame_log (s : State) : s.clearFrame.log = s.log :=
  rfl
@[simp] theorem State.clearFrame_env (s : State) : s.clearFrame.env = s.env :=
  rfl

/-! ### clearRing -/

@[simp] theorem State.clearRing_cfg (s : State) : s.clearRing.cfg = s.cfg :=
  rfl
@[simp] theorem State.clearRing_life (s : State) : s.clearRing.life = s.life :=
  rfl
@[simp] theorem State.clearRing_cb (s : State) : s.clearRing.cb = s.cb :=
  rfl
@[simp] theorem State.clearRing_frame (s : State) : s.clearRing.frame = s.frame :=
  rfl
@[simp] theorem State.clearRing_ring (s : State) : s.clearRing.ring = { s.ring with head := 0, tail := 0, count := 0 } :=
  rfl
@[simp] theorem State.clearRing_resp (s : State) : s.clearRing.resp = s.resp :=
  rfl
@[simp] theorem State.clearRing_lines (s : State) : s.clearRing.lines = s.lines :=
  rfl
@[simp] theorem State.clearRing_master (s : State) : s.clearRing.master = s.master :=
  rfl
@[simp] theorem State.clearRing_fgPc (s : State) : s.clearRing.fgPc = s.fgPc :=
  rfl
@[simp] theorem State.clearRing_irqPc (s : State) : s.clearRing.irqPc = s.irqPc :=
  rfl
@[simp] theorem State.clearRing_ctx (s : State) : s.clearRing.ctx = s.ctx :=
  rfl
@[simp] theorem State.clearRing_log (s : State) : s.clearRing.log = s.log :=
  rfl
@[simp] theorem State.clearRing_env (s : State) : s.clearRing.env = s.env :=
  rfl

/-! ### clearResponse -/

@[simp] theorem State.clearResponse_cfg (s : State) : s.clearResponse.cfg = s.cfg :=
  rfl
@[simp] theorem State.clearResponse_life (s : State) : s.clearResponse.life = s.life :=
  rfl
@[simp] theorem State.clearResponse_cb (s : State) : s.clearResponse.cb = s.cb :=
  rfl
@[simp] theorem State.clearResponse_frame (s : State) : s.clearResponse.frame = s.frame :=
  rfl
@[simp] theorem State.clearResponse_ring (s : State) : s.clearResponse.ring = s.ring :=
  rfl
@[simp] theorem State.clearResponse_resp (s : State) : s.clearResponse.resp = { bytes := [], length := 0, cursor := 0, pending := false } :=
  rfl
@[simp] theorem State.clearResponse_lines (s : State) : s.clearResponse.lines = s.lines :=
  rfl
@[simp] theorem State.clearResponse_master (s : State) : s.clearResponse.master = s.master :=
  rfl
@[simp] theorem State.clearResponse_fgPc (s : State) : s.clearResponse.fgPc = s.fgPc :=
  rfl
@[simp] theorem State.clearResponse_irqPc (s : State) : s.clearResponse.irqPc = s.irqPc :=
  rfl
@[simp] theorem State.clearResponse_ctx (s : State) : s.clearResponse.ctx = s.ctx :=
  rfl
@[simp] theorem State.clearResponse_log (s : State) : s.clearResponse.log = s.log :=
  rfl
@[simp] theorem State.clearResponse_env (s : State) : s.clearResponse.env = s.env :=
  rfl

/-! ### enqueue -/

@[simp] theorem State.enqueue_cfg (s : State) (m : Message) : (s.enqueue m).cfg = s.cfg :=
  rfl
@[simp] theorem State.enqueue_life (s : State) (m : Message) : (s.enqueue m).life = s.life :=
  rfl
@[simp] theorem State.enqueue_cb (s : State) (m : Message) : (s.enqueue m).cb = s.cb :=
  rfl
@[simp] theorem State.enqueue_frame (s : State) (m : Message) : (s.enqueue m).frame = s.frame :=
  rfl
@[simp] theorem State.enqueue_ring (s : State) (m : Message) : (s.enqueue m).ring = {
      slots := s.ring.slots.set s.ring.head m
      head := (s.ring.head + 1) % s.cfg.ringCapacity
      tail := s.ring.tail
      count := s.ring.count + 1 } :=
  rfl
@[simp] theorem State.enqueue_resp (s : State) (m : Message) : (s.enqueue m).resp = s.resp :=
  rfl
@[simp] theorem State.enqueue_lines (s : State) (m : Message) : (s.enqueue m).lines = s.lines :=
  rfl
@[simp] theorem State.enqueue_master (s : State) (m : Message) : (s.enqueue m).master = s.master :=
  rfl
@[simp] theorem State.enqueue_fgPc (s : State) (m : Message) : (s.enqueue m).fgPc = s.fgPc :=
  rfl
@[simp] theorem State.enqueue_irqPc (s : State) (m : Message) : (s.enqueue m).irqPc = s.irqPc :=
  rfl
@[simp] theorem State.enqueue_ctx (s : State) (m : Message) : (s.enqueue m).ctx = s.ctx :=
  rfl
@[simp] theorem State.enqueue_log (s : State) (m : Message) : (s.enqueue m).log = s.log :=
  rfl
@[simp] theorem State.enqueue_env (s : State) (m : Message) : (s.enqueue m).env = s.env :=
  rfl

/-! ### dropOldest -/

@[simp] theorem State.dropOldest_cfg (s : State) : s.dropOldest.cfg = s.cfg :=
  rfl
@[simp] theorem State.dropOldest_life (s : State) : s.dropOldest.life = s.life :=
  rfl
@[simp] theorem State.dropOldest_cb (s : State) : s.dropOldest.cb = s.cb :=
  rfl
@[simp] theorem State.dropOldest_frame (s : State) : s.dropOldest.frame = s.frame :=
  rfl
@[simp] theorem State.dropOldest_ring (s : State) : s.dropOldest.ring = { s.ring with tail := (s.ring.tail + 1) % s.cfg.ringCapacity, count := s.ring.count - 1 } :=
  rfl
@[simp] theorem State.dropOldest_resp (s : State) : s.dropOldest.resp = s.resp :=
  rfl
@[simp] theorem State.dropOldest_lines (s : State) : s.dropOldest.lines = s.lines :=
  rfl
@[simp] theorem State.dropOldest_master (s : State) : s.dropOldest.master = s.master :=
  rfl
@[simp] theorem State.dropOldest_fgPc (s : State) : s.dropOldest.fgPc = s.fgPc :=
  rfl
@[simp] theorem State.dropOldest_irqPc (s : State) : s.dropOldest.irqPc = s.irqPc :=
  rfl
@[simp] theorem State.dropOldest_ctx (s : State) : s.dropOldest.ctx = s.ctx :=
  rfl
@[simp] theorem State.dropOldest_log (s : State) : s.dropOldest.log = s.log :=
  rfl
@[simp] theorem State.dropOldest_env (s : State) : s.dropOldest.env = s.env :=
  rfl

/-! ### enter -/

@[simp] theorem State.enter_cfg (s : State) (a : Agent) : (s.enter a).cfg = s.cfg :=
  rfl
@[simp] theorem State.enter_life (s : State) (a : Agent) : (s.enter a).life = s.life :=
  rfl
@[simp] theorem State.enter_cb (s : State) (a : Agent) : (s.enter a).cb = s.cb :=
  rfl
@[simp] theorem State.enter_frame (s : State) (a : Agent) : (s.enter a).frame = s.frame :=
  rfl
@[simp] theorem State.enter_ring (s : State) (a : Agent) : (s.enter a).ring = s.ring :=
  rfl
@[simp] theorem State.enter_resp (s : State) (a : Agent) : (s.enter a).resp = s.resp :=
  rfl
@[simp] theorem State.enter_lines (s : State) (a : Agent) : (s.enter a).lines = s.lines :=
  rfl
@[simp] theorem State.enter_master (s : State) (a : Agent) : (s.enter a).master = s.master :=
  rfl
@[simp] theorem State.enter_fgPc (s : State) (a : Agent) : (s.enter a).fgPc = s.fgPc :=
  rfl
@[simp] theorem State.enter_irqPc (s : State) (a : Agent) : (s.enter a).irqPc = s.irqPc :=
  rfl
@[simp] theorem State.enter_ctx (s : State) (a : Agent) : (s.enter a).ctx = a :=
  rfl
@[simp] theorem State.enter_log (s : State) (a : Agent) : (s.enter a).log = s.log :=
  rfl
@[simp] theorem State.enter_env (s : State) (a : Agent) : (s.enter a).env = s.env :=
  rfl

/-! ### retire -/

@[simp] theorem State.retire_cfg (s : State) : s.retire.cfg = s.cfg :=
  by unfold State.retire; split <;> rfl
@[simp] theorem State.retire_life (s : State) : s.retire.life = s.life :=
  by unfold State.retire; split <;> rfl
@[simp] theorem State.retire_cb (s : State) : s.retire.cb = s.cb :=
  by unfold State.retire; split <;> rfl
@[simp] theorem State.retire_frame (s : State) : s.retire.frame = s.frame :=
  by unfold State.retire; split <;> rfl
@[simp] theorem State.retire_ring (s : State) : s.retire.ring = s.ring :=
  by unfold State.retire; split <;> rfl
@[simp] theorem State.retire_resp (s : State) : s.retire.resp = s.resp :=
  by unfold State.retire; split <;> rfl
@[simp] theorem State.retire_lines (s : State) : s.retire.lines = s.lines :=
  by unfold State.retire; split <;> rfl
@[simp] theorem State.retire_master (s : State) : s.retire.master = s.master :=
  by unfold State.retire; split <;> rfl
@[simp] theorem State.retire_fgPc (s : State) : s.retire.fgPc = (if s.ctx = .fg then s.fgPc + 1 else s.fgPc) :=
  by unfold State.retire; split <;> simp_all
@[simp] theorem State.retire_irqPc (s : State) : s.retire.irqPc = (if s.ctx = .irq then s.irqPc + 1 else s.irqPc) :=
  by unfold State.retire; split <;> simp_all
@[simp] theorem State.retire_ctx (s : State) : s.retire.ctx = .fg :=
  by unfold State.retire; split <;> simp_all
@[simp] theorem State.retire_log (s : State) : s.retire.log = s.log :=
  by unfold State.retire; split <;> rfl
@[simp] theorem State.retire_env (s : State) : s.retire.env = s.env :=
  by unfold State.retire; split <;> rfl

/-! ### goOn -/

@[simp] theorem State.goOn_cfg (s : State) (q : Seq) : (s.goOn q).cfg = s.cfg :=
  rfl
@[simp] theorem State.goOn_life (s : State) (q : Seq) : (s.goOn q).life = s.life :=
  rfl
@[simp] theorem State.goOn_cb (s : State) (q : Seq) : (s.goOn q).cb = s.cb :=
  rfl
@[simp] theorem State.goOn_frame (s : State) (q : Seq) : (s.goOn q).frame = s.frame :=
  rfl
@[simp] theorem State.goOn_ring (s : State) (q : Seq) : (s.goOn q).ring = s.ring :=
  rfl
@[simp] theorem State.goOn_resp (s : State) (q : Seq) : (s.goOn q).resp = s.resp :=
  rfl
@[simp] theorem State.goOn_lines (s : State) (q : Seq) : (s.goOn q).lines = s.lines :=
  rfl
@[simp] theorem State.goOn_master (s : State) (q : Seq) : (s.goOn q).master = { s.master with seq := some q } :=
  rfl
@[simp] theorem State.goOn_fgPc (s : State) (q : Seq) : (s.goOn q).fgPc = s.fgPc :=
  rfl
@[simp] theorem State.goOn_irqPc (s : State) (q : Seq) : (s.goOn q).irqPc = s.irqPc :=
  rfl
@[simp] theorem State.goOn_ctx (s : State) (q : Seq) : (s.goOn q).ctx = s.ctx :=
  rfl
@[simp] theorem State.goOn_log (s : State) (q : Seq) : (s.goOn q).log = s.log :=
  rfl
@[simp] theorem State.goOn_env (s : State) (q : Seq) : (s.goOn q).env = s.env :=
  rfl

/-! ### driveLine -/

@[simp] theorem State.driveLine_cfg (s : State) (l : Line) (d : Drive) : (s.driveLine l d).cfg = s.cfg :=
  rfl
@[simp] theorem State.driveLine_life (s : State) (l : Line) (d : Drive) : (s.driveLine l d).life = s.life :=
  rfl
@[simp] theorem State.driveLine_cb (s : State) (l : Line) (d : Drive) : (s.driveLine l d).cb = s.cb :=
  rfl
@[simp] theorem State.driveLine_frame (s : State) (l : Line) (d : Drive) : (s.driveLine l d).frame = s.frame :=
  rfl
@[simp] theorem State.driveLine_ring (s : State) (l : Line) (d : Drive) : (s.driveLine l d).ring = s.ring :=
  rfl
@[simp] theorem State.driveLine_resp (s : State) (l : Line) (d : Drive) : (s.driveLine l d).resp = s.resp :=
  rfl
@[simp] theorem State.driveLine_lines (s : State) (l : Line) (d : Drive) : (s.driveLine l d).lines = s.lines.drive l d :=
  rfl
@[simp] theorem State.driveLine_master (s : State) (l : Line) (d : Drive) : (s.driveLine l d).master = s.master :=
  rfl
@[simp] theorem State.driveLine_fgPc (s : State) (l : Line) (d : Drive) : (s.driveLine l d).fgPc = s.fgPc :=
  rfl
@[simp] theorem State.driveLine_irqPc (s : State) (l : Line) (d : Drive) : (s.driveLine l d).irqPc = s.irqPc :=
  rfl
@[simp] theorem State.driveLine_ctx (s : State) (l : Line) (d : Drive) : (s.driveLine l d).ctx = s.ctx :=
  rfl
@[simp] theorem State.driveLine_log (s : State) (l : Line) (d : Drive) : (s.driveLine l d).log = { s.log with calllog := s.log.calllog ++ [.line l d] } :=
  rfl
@[simp] theorem State.driveLine_env (s : State) (l : Line) (d : Drive) : (s.driveLine l d).env = s.env :=
  rfl

/-! ### takeLines -/

@[simp] theorem State.takeLines_cfg (s : State) : s.takeLines.cfg = s.cfg :=
  rfl
@[simp] theorem State.takeLines_life (s : State) : s.takeLines.life = s.life :=
  rfl
@[simp] theorem State.takeLines_cb (s : State) : s.takeLines.cb = s.cb :=
  rfl
@[simp] theorem State.takeLines_frame (s : State) : s.takeLines.frame = s.frame :=
  rfl
@[simp] theorem State.takeLines_ring (s : State) : s.takeLines.ring = s.ring :=
  rfl
@[simp] theorem State.takeLines_resp (s : State) : s.takeLines.resp = s.resp :=
  rfl
@[simp] theorem State.takeLines_lines (s : State) : s.takeLines.lines = { s.lines with cfgScl := Config.mcfg, cfgSda := Config.mcfg } :=
  rfl
@[simp] theorem State.takeLines_master (s : State) : s.takeLines.master = { s.master with snap := some (s.lines.cfgScl, s.lines.cfgSda), owns := true } :=
  rfl
@[simp] theorem State.takeLines_fgPc (s : State) : s.takeLines.fgPc = s.fgPc :=
  rfl
@[simp] theorem State.takeLines_irqPc (s : State) : s.takeLines.irqPc = s.irqPc :=
  rfl
@[simp] theorem State.takeLines_ctx (s : State) : s.takeLines.ctx = s.ctx :=
  rfl
@[simp] theorem State.takeLines_log (s : State) : s.takeLines.log = { s.log with calllog := s.log.calllog ++ [.snap] } :=
  rfl
@[simp] theorem State.takeLines_env (s : State) : s.takeLines.env = s.env :=
  rfl

/-! ### giveBackLines -/

@[simp] theorem State.giveBackLines_cfg (s : State) (a b : LineCfg) : (s.giveBackLines a b).cfg = s.cfg :=
  rfl
@[simp] theorem State.giveBackLines_life (s : State) (a b : LineCfg) : (s.giveBackLines a b).life = s.life :=
  rfl
@[simp] theorem State.giveBackLines_cb (s : State) (a b : LineCfg) : (s.giveBackLines a b).cb = s.cb :=
  rfl
@[simp] theorem State.giveBackLines_frame (s : State) (a b : LineCfg) : (s.giveBackLines a b).frame = s.frame :=
  rfl
@[simp] theorem State.giveBackLines_ring (s : State) (a b : LineCfg) : (s.giveBackLines a b).ring = s.ring :=
  rfl
@[simp] theorem State.giveBackLines_resp (s : State) (a b : LineCfg) : (s.giveBackLines a b).resp = s.resp :=
  rfl
@[simp] theorem State.giveBackLines_lines (s : State) (a b : LineCfg) : (s.giveBackLines a b).lines = { s.lines with cfgScl := a, cfgSda := b } :=
  rfl
@[simp] theorem State.giveBackLines_master (s : State) (a b : LineCfg) : (s.giveBackLines a b).master = { s.master with snap := none, owns := false } :=
  rfl
@[simp] theorem State.giveBackLines_fgPc (s : State) (a b : LineCfg) : (s.giveBackLines a b).fgPc = s.fgPc :=
  rfl
@[simp] theorem State.giveBackLines_irqPc (s : State) (a b : LineCfg) : (s.giveBackLines a b).irqPc = s.irqPc :=
  rfl
@[simp] theorem State.giveBackLines_ctx (s : State) (a b : LineCfg) : (s.giveBackLines a b).ctx = s.ctx :=
  rfl
@[simp] theorem State.giveBackLines_log (s : State) (a b : LineCfg) : (s.giveBackLines a b).log = { s.log with calllog := s.log.calllog ++ [.restore] } :=
  rfl
@[simp] theorem State.giveBackLines_env (s : State) (a b : LineCfg) : (s.giveBackLines a b).env = s.env :=
  rfl

/-! ### passTurn -/

@[simp] theorem State.passTurn_cfg (s : State) : s.passTurn.cfg = s.cfg :=
  rfl
@[simp] theorem State.passTurn_life (s : State) : s.passTurn.life = s.life :=
  rfl
@[simp] theorem State.passTurn_cb (s : State) : s.passTurn.cb = s.cb :=
  rfl
@[simp] theorem State.passTurn_frame (s : State) : s.passTurn.frame = s.frame :=
  rfl
@[simp] theorem State.passTurn_ring (s : State) : s.passTurn.ring = s.ring :=
  rfl
@[simp] theorem State.passTurn_resp (s : State) : s.passTurn.resp = s.resp :=
  rfl
@[simp] theorem State.passTurn_lines (s : State) : s.passTurn.lines = s.lines :=
  rfl
@[simp] theorem State.passTurn_master (s : State) : s.passTurn.master = s.master :=
  rfl
@[simp] theorem State.passTurn_fgPc (s : State) : s.passTurn.fgPc = s.fgPc :=
  rfl
@[simp] theorem State.passTurn_irqPc (s : State) : s.passTurn.irqPc = s.irqPc :=
  rfl
@[simp] theorem State.passTurn_ctx (s : State) : s.passTurn.ctx = s.ctx :=
  rfl
@[simp] theorem State.passTurn_log (s : State) : s.passTurn.log = s.log :=
  rfl
@[simp] theorem State.passTurn_env (s : State) : s.passTurn.env = { s.env with turns := s.env.turns.drop 1 } :=
  rfl

end Sys2Proof.Machine
end

