-- ==== Sys2Proof/Laws/Ops.lean ====
section
/-! SUPPORT. For each shared operation, what it answers: the lemmas a proof cites instead of unfolding the operation. -/

namespace Sys2Proof.Machine

/-! ### Draws change nothing but the inputs -/

theorem State.drawNow_state (s : State) : s.drawNow.2 = { s with env := s.drawNow.2.env } := by
  unfold State.drawNow
  split <;> rfl

@[simp] theorem State.drawNow_cfg (s : State) : s.drawNow.2.cfg = s.cfg := by rw [State.drawNow_state]
@[simp] theorem State.drawNow_life (s : State) : s.drawNow.2.life = s.life := by rw [State.drawNow_state]
@[simp] theorem State.drawNow_cb (s : State) : s.drawNow.2.cb = s.cb := by rw [State.drawNow_state]
@[simp] theorem State.drawNow_frame (s : State) : s.drawNow.2.frame = s.frame := by rw [State.drawNow_state]
@[simp] theorem State.drawNow_ring (s : State) : s.drawNow.2.ring = s.ring := by rw [State.drawNow_state]
@[simp] theorem State.drawNow_resp (s : State) : s.drawNow.2.resp = s.resp := by rw [State.drawNow_state]
@[simp] theorem State.drawNow_lines (s : State) : s.drawNow.2.lines = s.lines := by rw [State.drawNow_state]
@[simp] theorem State.drawNow_master (s : State) : s.drawNow.2.master = s.master := by rw [State.drawNow_state]
@[simp] theorem State.drawNow_fgPc (s : State) : s.drawNow.2.fgPc = s.fgPc := by rw [State.drawNow_state]
@[simp] theorem State.drawNow_irqPc (s : State) : s.drawNow.2.irqPc = s.irqPc := by rw [State.drawNow_state]
@[simp] theorem State.drawNow_ctx (s : State) : s.drawNow.2.ctx = s.ctx := by rw [State.drawNow_state]
@[simp] theorem State.drawNow_log (s : State) : s.drawNow.2.log = s.log := by rw [State.drawNow_state]

/-- At the full width a timestamp is kept. -/
@[simp] theorem cutTimestamp_full (ts : Timestamp) : cutTimestamp 32 ts = ts := by
  apply BitVec.eq_of_toNat_eq
  have h := ts.isLt
  simp only [cutTimestamp, BitVec.toNat_ofNat]
  omega

theorem cutTimestamp_toNat (width : Nat) (ts : Timestamp) : (cutTimestamp width ts).toNat = ts.toNat % 2 ^ width := by
  rw [cutTimestamp, BitVec.toNat_ofNat]
  exact Nat.mod_eq_of_lt (lt_of_le_of_lt (Nat.mod_le _ _) ts.isLt)

/-- A given draw of `NowMs()` is the one taken. -/
theorem State.drawNow_given (s : State) (ts : Timestamp) (rest : List Timestamp) (h : s.env.now = ts :: rest) :
    s.drawNow = (cutTimestamp s.cfg.timestampWidth ts, { s with env := { s.env with now := rest } }) := by
  simp [State.drawNow, h]

/-- Every timestamp drawn fits its width. -/
theorem State.drawNow_lt (s : State) : s.drawNow.1.toNat < 2 ^ s.cfg.timestampWidth := by
  unfold State.drawNow
  split <;> rw [cutTimestamp_toNat] <;> exact Nat.mod_lt _ (Nat.two_pow_pos _)

/-- In a word of 16 bits every bit of it is a bit of the word. -/
theorem flagSet_full (p : Params) (flags : Flags) (b : Nat) (h : p.flagsWidth = 16) :
    flagSet p flags b = flags.getLsbD b := by
  rw [flagSet, h]
  by_cases hb : b < 16
  · simp [hb]
  · rw [BitVec.getLsbD_of_ge flags b (by omega)]; simp

theorem State.drawSda_state (s : State) : s.drawSda.2 = { s with env := s.drawSda.2.env } := by
  unfold State.drawSda
  split <;> rfl

/-- A sample appends its event and changes nothing else but the inputs. -/
theorem State.sample_state (s : State) :
    s.sample.2 = { s with
      env := s.sample.2.env
      log := { s.log with calllog := s.log.calllog ++ [.sample s.sample.1] } } := by
  unfold State.sample State.readSda
  split
  · rfl
  · unfold State.drawSda
    split <;> rfl

/-- No draw touches the streams or the schedule. -/
theorem State.drawNow_streams (s : State) :
    s.drawNow.2.env.fgStream = s.env.fgStream ∧ s.drawNow.2.env.irqStream = s.env.irqStream := by
  unfold State.drawNow
  split <;> exact ⟨rfl, rfl⟩

theorem State.sample_streams (s : State) :
    s.sample.2.env.fgStream = s.env.fgStream ∧ s.sample.2.env.irqStream = s.env.irqStream := by
  unfold State.sample State.readSda
  split
  · exact ⟨rfl, rfl⟩
  · unfold State.drawSda
    split <;> exact ⟨rfl, rfl⟩

/-! ### Admission -/

/-- In its own context, and after INIT where it needs it, an operation is its body. -/
theorem whenAdmitted_of (a : Agent) (needsInit : Bool) (s : State)
    (body : State → Host.Outcome State Fault Refusal) (hc : s.ctx = a)
    (hi : needsInit = true → s.life = .ready) : whenAdmitted a needsInit s body = body s := by
  unfold whenAdmitted
  cases needsInit <;> simp_all

/-- Everything the admission of an operation can answer. -/
theorem whenAdmitted_cases (a : Agent) (needsInit : Bool) (s : State) (body : State → Host.Outcome State Fault Refusal) :
    (s.ctx = a ∧ (needsInit = true → s.life = .ready) ∧ whenAdmitted a needsInit s body = body s) ∨
    (s.ctx ≠ a ∧ (needsInit = true → s.life = .ready) ∧
      whenAdmitted a needsInit s body = .next (s.refuseOp .wrongContext)) ∨
    (s.ctx = a ∧ needsInit = true ∧ s.life = .uninit ∧ whenAdmitted a needsInit s body = .next (s.refuseOp .notInit)) ∨
    (s.ctx ≠ a ∧ needsInit = true ∧ s.life = .uninit ∧ whenAdmitted a needsInit s body = .next s.refuseEither) := by
  unfold whenAdmitted
  by_cases hc : s.ctx = a <;> cases needsInit <;> cases hl : s.life <;> simp [hc]

/-- A refused operation is marked and consumed. -/
theorem State.refuseOp_eq (s : State) (r : RefusalMark) : s.refuseOp r = refusedIn s r := by
  unfold State.refuseOp refusedIn
  cases h : s.ctx <;> (ext1 <;> simp [h])

/-- An operation refused on both counts is marked with one of the two reasons. -/
theorem State.refuseEither_eq (s : State) : ∃ r, (r = RefusalMark.wrongContext ∨ r = .notInit) ∧
    s.refuseEither = { refusedIn s r with env := { s.env with drawn := s.env.drawn + 1 } } := by
  refine ⟨if Config.freeWrongContextFirst s.env.drawn then .wrongContext else .notInit, ?_, ?_⟩
  · cases Config.freeWrongContextFirst s.env.drawn <;> simp
  · unfold State.refuseEither
    rw [State.refuseOp_eq]
    unfold refusedIn
    simp only [State.countDraw_ctx]
    cases s.ctx <;> rfl

/-! ### Resets -/

theorem State.resetBody_eq (s : State) : s.resetBody = cleared s := by
  unfold State.resetBody
  ext1 <;> simp [cleared]

/-- Taking an error, at the end of the operation that took it. -/
theorem State.takeError_taken (s : State) (k : ErrorKind) (f : Flags) (d : Bool) (h : s.ctx = .irq) :
    ErrorTaken s k f d (s.takeError k f d).retire := by
  have hf : faultsAfterRearm (s.drawNow.2.report k f d s.drawNow.1) = faultsAfterRearm s := by
    simp [faultsAfterRearm, reported]
  have hr : reported s.drawNow.2 k f d s.drawNow.1 = reported s k f d s.drawNow.1 := by simp [reported]
  cases hs : s.cfg.forcedResetScope <;> constructor <;>
    simp [State.takeError, State.forcedReset, hs, h, hf, hr] <;> simp [reported]

/-- The error an operation takes does not depend on the frame it had. -/
theorem State.takeError_frame (s : State) (k : ErrorKind) (fl : Flags) (d : Bool) (f : Frame) :
    ({ s with frame := f }).takeError k fl d = s.takeError k fl d := by
  unfold State.takeError State.forcedReset State.drawNow
  cases s.env.now <;> cases hs : s.cfg.forcedResetScope <;>
    (ext1 <;> simp [hs, reported, faultsAfterRearm, State.countDraw])

end Sys2Proof.Machine
end

