-- ==== Sys2Proof/Laws/Master.lean ====
section
/-! SUPPORT. What one primitive, the way on after a stage, and one atomic step of a master operation can do, and how a
run of atomic steps goes through a stage. -/

namespace Sys2Proof.Machine

/-! ### One primitive -/

/-- A primitive writes the lines, what the master owns, the call log, the fault bits and the draws, and nothing else;
it appends one entry to the call log; and of the operation's variables it writes `ok` and `x` alone. -/
theorem runPrim_frame {p : Prim} {q q' : Seq} {s s' : State} (h : runPrim p q s = .ok (q', s')) :
    q' = { q with ok := q'.ok, rx := q'.rx } ∧
    s' = { s with
      lines := s'.lines
      master := { s'.master with seq := s.master.seq }
      log := { s.log with calllog := s'.log.calllog, faults := s'.log.faults }
      env := { s.env with sda := s'.env.sda, drawn := s'.env.drawn } } ∧
    ∃ e, s'.log.calllog = s.log.calllog ++ [e] := by
  have hs : s.sample.2 = { s with
      log := { s.log with calllog := s.log.calllog ++ [.sample s.sample.1] }
      env := { s.env with sda := s.sample.2.env.sda, drawn := s.sample.2.env.drawn } } := by
    unfold State.sample State.readSda
    split
    · rfl
    · unfold State.drawSda
      split <;> rfl
  cases p <;> simp only [runPrim] at h <;> (try split at h) <;> cases h
  case sampleAck => rw [hs]; exact ⟨rfl, rfl, _, rfl⟩
  case sampleBit => rw [hs]; exact ⟨rfl, rfl, _, rfl⟩
  case rearm =>
    unfold State.rearmCheck
    split <;> exact ⟨rfl, rfl, _, rfl⟩
  all_goals exact ⟨rfl, rfl, _, rfl⟩

/-- Whether the master owns the lines after a primitive performed in its place (rules R221, R222, R223). -/
theorem runPrim_owns {p : Prim} {q : Seq} {s : State} {rest : List Prim} {b : Bool}
    (h : ownsAfter s.master.owns (p :: rest) = some b) (hs : s.master.snap.isSome = s.master.owns) :
    ∃ q' s', runPrim p q s = .ok (q', s') ∧ ownsAfter s'.master.owns rest = some b ∧
      s'.master.snap.isSome = s'.master.owns := by
  cases ho : s.master.owns <;> rw [ho] at h hs <;> cases p <;> simp only [ownsAfter, reduceCtorEq] at h <;>
    simp only [runPrim, ho]
  case true.restore =>
    obtain ⟨c, hc⟩ := Option.isSome_iff_exists.mp hs
    rw [hc]
    exact ⟨_, _, rfl, h, rfl⟩
  case true.sampleAck => rw [State.sample_state]; exact ⟨_, _, rfl, by simpa [ho] using h, by simp [ho, hs]⟩
  case true.sampleBit => rw [State.sample_state]; exact ⟨_, _, rfl, by simpa [ho] using h, by simp [ho, hs]⟩
  all_goals exact ⟨_, _, rfl, by simp [State.rearmCheck, ho, State.logCall] at h ⊢; exact h, by simp [State.rearmCheck, ho, State.logCall, hs]⟩

/-- No primitive reads or writes the position of the operation. -/
theorem runPrim_goOn (p : Prim) (q x : Seq) (s : State) :
    runPrim p q (s.goOn x) = (runPrim p q s).map (fun r => (r.1, r.2.goOn x)) := by
  obtain ⟨_, _, _, _, _, _, ⟨_, _, _, sda⟩, ⟨owns, snap, _⟩, _, _, _, _, ⟨_, _, _, _, draws, _⟩⟩ := s
  cases p
  case snap => rfl
  case line => cases owns <;> rfl
  case delay => rfl
  case sampleAck => cases owns <;> cases sda <;> cases draws <;> rfl
  case sampleBit => cases owns <;> cases sda <;> cases draws <;> rfl
  case restore => cases snap <;> rfl
  case rearm => cases owns <;> rfl
  case call => rfl

/-! ### The way on -/

/-- Where a stage ends, the operation goes on or returns its result; only the result of a failed read takes a draw. -/
theorem State.settle_cases (s : State) (q : Seq) :
    (∃ q', s.settle q = s.goOn q' ∧ q'.todo ≠ []) ∨ (∃ r, s.settle q = s.finish r) ∨
      (∃ r, s.settle q = s.countDraw.finish r) := by
  have hact : ∀ a, actPrims a ≠ [] := by intro a; cases a <;> simp [actPrims, startPrims, edge, writeBytePrims, msbFirst, writeBitPrims, readBytePrims]
  have hnext : ∀ q, (nextAct q).todo ≠ [] := by
    intro q
    unfold nextAct
    split
    · simp [closeTxn, stopPrims, edge]
    · exact hact _
  have hopen : ∀ j a, (openTxn j a).todo ≠ [] := by intro j a; simp [openTxn, beginPrims]
  have hprobe : ∀ k p, (∃ q', s.startProbe k p = s.goOn q' ∧ q'.todo ≠ []) ∨ (∃ r, s.startProbe k p = s.finish r) := by
    intro k p
    unfold State.startProbe
    split
    · exact .inl ⟨_, rfl, hopen _ _⟩
    · exact .inr ⟨_, rfl⟩
  unfold State.settle State.afterTxn State.nextChunk State.finishRead
  split
  · exact .inl ⟨_, rfl, hnext _⟩
  · exact .inl ⟨_, rfl, hnext _⟩
  · split
    · exact .inl ⟨_, rfl, hnext _⟩
    · exact .inl ⟨_, rfl, by simp [closeTxn, stopPrims, edge]⟩
  · exact .inl ⟨_, rfl, hnext _⟩
  · split
    · exact .inr (.inl ⟨_, rfl⟩)
    · split
      · exact .inr (.inl ⟨_, rfl⟩)
      · exact .inr (.inr ⟨_, rfl⟩)
    · split
      · exact (hprobe _ _).imp_right .inl
      · exact .inr (.inl ⟨_, rfl⟩)
    · split
      · split
        · exact .inr (.inl ⟨_, rfl⟩)
        · exact .inl ⟨_, rfl, hopen _ _⟩
      · split
        · exact .inl ⟨_, rfl, by simp [pause]⟩
        · exact .inr (.inl ⟨_, rfl⟩)
  · exact (hprobe _ _).imp_right .inl

/-- The way on does not depend on the position it leaves. -/
theorem State.settle_goOn (s : State) (q x : Seq) : (s.goOn x).settle q = s.settle q := by
  obtain ⟨todo, stage, acts, ok, rx, buf, job⟩ := q
  have hprobe : ∀ k p, (s.goOn x).startProbe k p = s.startProbe k p := by
    intro k p
    by_cases h : k ≤ s.cfg.probeMax
    · rw [State.startProbe, State.startProbe, if_pos h, if_pos (show k ≤ (s.goOn x).cfg.probeMax from h)]; rfl
    · rw [State.startProbe, State.startProbe, if_neg h, if_neg (show ¬ k ≤ (s.goOn x).cfg.probeMax from h)]; rfl
  cases stage with
  | opening => rfl
  | acting a => cases a <;> rfl
  | pausing k p => exact hprobe k p
  | closing =>
    cases job with
    | write => rfl
    | read => cases ok <;> rfl
    | chunk p => cases ok; rfl; exact hprobe 1 p
    | probe k p =>
      cases ok
      · by_cases h : k < s.cfg.probeMax
        · simp only [State.settle, State.afterTxn, if_pos h, if_pos (show k < (s.goOn x).cfg.probeMax from h)]; rfl
        · simp only [State.settle, State.afterTxn, if_neg h, if_neg (show ¬ k < (s.goOn x).cfg.probeMax from h)]; rfl
      · cases p <;> rfl

/-! ### One atomic step -/

/-- Everything an atomic step with a primitive left can answer. -/
theorem masterStep_cons {p : Prim} {rest : List Prim} {q : Seq} {s : State} (h : q.todo = p :: rest) :
    (∃ f, runPrim p { q with todo := rest } s = .error f ∧ masterStep q s = .fault f) ∨
    (∃ q' s', runPrim p { q with todo := rest } s = .ok (q', s') ∧
      masterStep q s = .next (if rest = [] then s'.settle q' else s'.goOn q')) := by
  unfold masterStep
  rw [h]
  dsimp only
  cases hr : runPrim p { q with todo := rest } s with
  | error f => exact .inl ⟨f, rfl, rfl⟩
  | ok r => exact .inr ⟨r.1, r.2, rfl, by cases rest <;> simp⟩

/-! ### Runs of atomic steps -/

/-- A run in two parts. -/
theorem runMaster_add (m n : Nat) (s t : State) (h : runMaster m s = .next t) :
    runMaster (m + n) s = runMaster n t := by
  induction m generalizing s with
  | zero => cases h; rw [Nat.zero_add]
  | succ m ih =>
    rw [show m + 1 + n = (m + n) + 1 by omega]
    rw [runMaster] at h ⊢
    cases hq : s.master.seq with
    | none =>
      rw [hq] at h
      cases h
      cases n <;> simp [runMaster, hq]
    | some q =>
      rw [hq] at h
      dsimp only at h ⊢
      cases hs : masterStep q s with
      | next s' => rw [hs] at h; exact ih s' h
      | fault f => rw [hs] at h; cases h
      | refused r => rw [hs] at h; cases h

/-- The primitives of a stage, one after the other. -/
def runPrims : List Prim → Seq → State → Except Fault (Seq × State)
  | [], q, s => .ok (q, s)
  | p :: rest, q, s =>
    match runPrim p { q with todo := rest } s with
    | .error f => .error f
    | .ok (q', s') => runPrims rest q' s'

/-- A run of as many steps as the stage has primitives goes through the stage, and settles what follows it. -/
theorem runMaster_stage (ps : List Prim) (q q' : Seq) (s s' : State) (hne : ps ≠ []) (hq : q.todo = ps)
    (h : runPrims ps q s = .ok (q', s')) : runMaster ps.length (s.goOn q) = .next (s'.settle q') := by
  induction ps generalizing q s with
  | nil => exact absurd rfl hne
  | cons p rest ih =>
    simp only [runPrims] at h
    split at h
    · cases h
    · rename_i q1 s1 hp
      have hq1 : q1.todo = rest := by rw [(runPrim_frame hp).1]
      have hp' : runPrim p { q with todo := rest } (s.goOn q) = .ok (q1, s1.goOn q) := by
        rw [runPrim_goOn, hp]; rfl
      have hseq : (s.goOn q).master.seq = some q := rfl
      rw [List.length_cons, runMaster, hseq]
      dsimp only
      unfold masterStep
      rw [hq]
      dsimp only
      rw [hp']
      cases rest with
      | nil =>
        cases h
        simp only [List.length_nil, runMaster]
        rw [State.settle_goOn]
      | cons p' rest' => exact ih q1 s1 (by simp) hq1 h

end Sys2Proof.Machine
end

