-- ==== Sys2Proof/Laws/MasterRun.lean ====
section
/-! SUPPORT. The stages of a transaction, run from end to end: the primitives of each procedure of 42_master_bus.md do to
the bus what the pseudocode of Wire.lean does, where the bus device gives the draws the pseudocode takes. -/

namespace Sys2Proof.Machine

/-- `s` with these lines, and with the bus `b` for its draws and its call log. -/
def State.onBus (s : State) (ls : Lines) (b : Bus) : State :=
  { s with lines := ls, log := { s.log with calllog := b.log }, env := { s.env with sda := b.draws } }

/-- The lines with the drive states given. -/
def Lines.at (ls : Lines) (scl sda : Drive) : Lines := { ls with drvScl := scl, drvSda := sda }

section

variable (s : State) (ls : Lines) (b : Bus) (q : Seq) (ps : List Prim) (scl sda : Drive)

theorem runPrims_edge_scl (d : Drive) (h : s.master.owns = true) :
    runPrims (edge .scl d ++ ps) q (s.onBus (ls.at scl sda) b) =
      runPrims ps { q with todo := ps } (s.onBus (ls.at d sda) (b.edge .scl d)) := by
  have h' : (s.onBus (ls.at scl sda) b).master.owns = true := h
  simp only [edge, List.cons_append, List.nil_append, runPrims, runPrim, h', if_true]
  rfl

theorem runPrims_edge_sda (d : Drive) (h : s.master.owns = true) :
    runPrims (edge .sda d ++ ps) q (s.onBus (ls.at scl sda) b) =
      runPrims ps { q with todo := ps } (s.onBus (ls.at scl d) (b.edge .sda d)) := by
  have h' : (s.onBus (ls.at scl sda) b).master.owns = true := h
  simp only [edge, List.cons_append, List.nil_append, runPrims, runPrim, h', if_true]
  rfl

theorem runPrims_sampleAck (v : Bool) (b' : Bus) (h : s.master.owns = true) (hb : b.sample = some (v, b')) :
    runPrims (.sampleAck :: ps) q (s.onBus (ls.at scl .rel) b) =
      runPrims ps { q with todo := ps, ok := !v } (s.onBus (ls.at scl .rel) b') := by
  have h' : (s.onBus (ls.at scl .rel) b).master.owns = true := h
  obtain ⟨draws, log⟩ := b
  cases draws with
  | nil => cases hb
  | cons w rest =>
    cases hb
    simp only [runPrims, runPrim, h', if_true]
    rfl

theorem runPrims_sampleBit (i : Nat) (v : Bool) (b' : Bus) (h : s.master.owns = true) (hb : b.sample = some (v, b')) :
    runPrims (.sampleBit i :: ps) q (s.onBus (ls.at scl .rel) b) =
      runPrims ps { q with todo := ps, rx := putBit q.rx i v } (s.onBus (ls.at scl .rel) b') := by
  have h' : (s.onBus (ls.at scl .rel) b).master.owns = true := h
  obtain ⟨draws, log⟩ := b
  cases draws with
  | nil => cases hb
  | cons w rest =>
    cases hb
    simp only [runPrims, runPrim, h', if_true]
    rfl

/-- START (rule R224). -/
theorem runPrims_start (h : s.master.owns = true) :
    runPrims startPrims q (s.onBus (ls.at scl sda) b) =
      .ok ({ q with todo := [] }, s.onBus (ls.at .low .low) b.start) := by
  rw [show startPrims = edge .sda .rel ++ (edge .scl .rel ++ (edge .sda .low ++ (edge .scl .low ++ []))) from rfl,
    runPrims_edge_sda _ _ _ _ _ _ _ _ h, runPrims_edge_scl _ _ _ _ _ _ _ _ h, runPrims_edge_sda _ _ _ _ _ _ _ _ h,
    runPrims_edge_scl _ _ _ _ _ _ _ _ h]
  rfl

/-- One bit on the wire (rule R226). -/
theorem runPrims_writeBit (v : Bool) (h : s.master.owns = true) :
    runPrims (writeBitPrims v ++ ps) q (s.onBus (ls.at scl sda) b) =
      runPrims ps { q with todo := ps } (s.onBus (ls.at .low (driveOf v)) (b.writeBit v)) := by
  rw [writeBitPrims, List.append_assoc, List.append_assoc, runPrims_edge_sda _ _ _ _ _ _ _ _ h,
    runPrims_edge_scl _ _ _ _ _ _ _ _ h, runPrims_edge_scl _ _ _ _ _ _ _ _ h]
  rfl

/-- The acknowledge bit (rule R227). -/
theorem runPrims_readAck (ack : Bool) (b' : Bus) (h : s.master.owns = true) (hb : b.readAck = some (ack, b')) :
    runPrims readAckPrims q (s.onBus (ls.at scl sda) b) =
      .ok ({ q with todo := [], ok := ack }, s.onBus (ls.at .low .rel) b') := by
  unfold Bus.readAck at hb
  split at hb
  · cases hb
  · rename_i v b1 hs
    cases hb
    rw [show readAckPrims = edge .sda .rel ++ (edge .scl .rel ++ (.sampleAck :: (edge .scl .low ++ []))) from rfl,
      runPrims_edge_sda _ _ _ _ _ _ _ _ h, runPrims_edge_scl _ _ _ _ _ _ _ _ h,
      runPrims_sampleAck _ _ _ _ _ _ _ _ h hs, runPrims_edge_scl _ _ _ _ _ _ _ _ h]
    rfl

/-- WriteByte (rule R228). -/
theorem runPrims_writeByte (x : Byte) (ack : Bool) (b' : Bus) (h : s.master.owns = true)
    (hb : b.writeByte x = some (ack, b')) :
    runPrims (writeBytePrims x) q (s.onBus (ls.at scl sda) b) =
      .ok ({ q with todo := [], ok := ack }, s.onBus (ls.at .low .rel) b') := by
  rw [show writeBytePrims x = writeBitPrims (x.getLsbD 7) ++ (writeBitPrims (x.getLsbD 6) ++
    (writeBitPrims (x.getLsbD 5) ++ (writeBitPrims (x.getLsbD 4) ++ (writeBitPrims (x.getLsbD 3) ++
    (writeBitPrims (x.getLsbD 2) ++ (writeBitPrims (x.getLsbD 1) ++ (writeBitPrims (x.getLsbD 0) ++ readAckPrims)))))))
    by simp [writeBytePrims, msbFirst]]
  rw [runPrims_writeBit _ _ _ _ _ _ _ _ h, runPrims_writeBit _ _ _ _ _ _ _ _ h, runPrims_writeBit _ _ _ _ _ _ _ _ h,
    runPrims_writeBit _ _ _ _ _ _ _ _ h, runPrims_writeBit _ _ _ _ _ _ _ _ h, runPrims_writeBit _ _ _ _ _ _ _ _ h,
    runPrims_writeBit _ _ _ _ _ _ _ _ h, runPrims_writeBit _ _ _ _ _ _ _ _ h]
  exact runPrims_readAck _ _ _ _ _ _ _ _ h hb

/-- One bit from the wire (rule R229). -/
theorem runPrims_readBit (i : Nat) (v : Bool) (b' : Bus) (h : s.master.owns = true) (hb : b.readBit = some (v, b')) :
    runPrims (readBitPrims i ++ ps) q (s.onBus (ls.at scl .rel) b) =
      runPrims ps { q with todo := ps, rx := putBit q.rx i v } (s.onBus (ls.at .low .rel) b') := by
  unfold Bus.readBit at hb
  split at hb
  · cases hb
  · rename_i w b1 hs
    cases hb
    rw [show readBitPrims i ++ ps = edge .scl .rel ++ (.sampleBit i :: (edge .scl .low ++ ps)) by
        simp [readBitPrims], runPrims_edge_scl _ _ _ _ _ _ _ _ h,
      runPrims_sampleBit _ _ _ _ _ _ _ _ _ h hs, runPrims_edge_scl _ _ _ _ _ _ _ _ h]

/-- ReadBits in the order of the bit numbers given. -/
theorem runPrims_readBits (is : List Nat) (vs : List Bool) (b' : Bus) (h : s.master.owns = true)
    (hb : Bus.readBits is.length b = some (vs, b')) (hscl : is = [] → scl = .low) :
    runPrims (is.flatMap readBitPrims ++ ps) q (s.onBus (ls.at scl .rel) b) =
      runPrims ps { q with todo := if is = [] then q.todo else ps
                           rx := (is.zip vs).foldl (fun x iv => putBit x iv.1 iv.2) q.rx }
        (s.onBus (ls.at .low .rel) b') := by
  induction is generalizing q b vs scl with
  | nil =>
    cases hb
    rw [hscl rfl]
    rfl
  | cons i is ih =>
    rw [List.length_cons, Bus.readBits] at hb
    split at hb
    · cases hb
    · rename_i v b1 h1
      split at hb
      · cases hb
      · rename_i vs1 b2 h2
        cases hb
        rw [List.flatMap_cons, List.append_assoc, runPrims_readBit _ _ _ _ _ _ _ _ _ h h1,
          ih _ _ _ _ h2 (fun _ => rfl)]
        cases is <;> simp

/-- The bits of a byte read make the byte, the first of them the most significant. -/
theorem foldl_putBit (vs : List Bool) (h : vs.length = 8) :
    (msbFirst.zip vs).foldl (fun x iv => putBit x iv.1 iv.2) 0 =
      BitVec.ofNat 8 (vs.foldl (fun x v => 2 * x + v.toNat) 0) := by
  match vs, h with
  | [a, b, c, d, e, f, g, i], _ =>
    revert a b c d e f g i
    decide

theorem readBits_length {n : Nat} {b b' : Bus} {vs : List Bool} (h : Bus.readBits n b = some (vs, b')) :
    vs.length = n := by
  induction n generalizing b vs with
  | zero => cases h; rfl
  | succ n ih =>
    rw [Bus.readBits] at h
    split at h
    · cases h
    · split at h
      · cases h
      · rename_i h2
        cases h
        simp [ih h2]

/-- ReadByte (rule R230). -/
theorem runPrims_readByte (last : Bool) (x : Byte) (b' : Bus) (h : s.master.owns = true) (hx : q.rx = 0)
    (hb : b.readByte last = some (x, b')) :
    runPrims (readBytePrims last) q (s.onBus (ls.at scl sda) b) =
      .ok ({ q with todo := [], rx := x }, s.onBus (ls.at .low (driveOf last)) b') := by
  unfold Bus.readByte at hb
  split at hb
  · cases hb
  · rename_i vs b1 hr
    cases hb
    rw [show readBytePrims last = edge .sda .rel ++ (msbFirst.flatMap readBitPrims ++ (edge .sda (driveOf (!!last)) ++
        (edge .scl .rel ++ (edge .scl .low ++ [])))) by simp [readBytePrims, sendAckPrims],
      runPrims_edge_sda _ _ _ _ _ _ _ _ h]
    rw [runPrims_readBits _ _ _ _ _ _ msbFirst vs b1 h hr (by simp [msbFirst]), runPrims_edge_sda _ _ _ _ _ _ _ _ h,
      runPrims_edge_scl _ _ _ _ _ _ _ _ h, runPrims_edge_scl _ _ _ _ _ _ _ _ h]
    simp only [runPrims, hx, foldl_putBit vs (readBits_length hr), Bus.sendAck, Bool.not_not]
    cases last <;> rfl

/-- STOP and End (rules R225, R223), where the snapshot has a value: the configuration it holds is restored, both lines
are released, and the engine is re-armed. -/
theorem runPrims_close (cfgScl cfgSda : LineCfg) (h : s.master.owns = true)
    (hsnap : s.master.snap = some (cfgScl, cfgSda)) :
    runPrims (stopPrims ++ endPrims) q (s.onBus (ls.at scl sda) b) =
      .ok ({ q with todo := [] },
        { s with master := { s.master with owns := false, snap := none } }.onBus
          { cfgScl, cfgSda, drvScl := .rel, drvSda := .rel } b.stop.finish) := by
  rw [show stopPrims ++ endPrims = edge .sda .low ++ (edge .scl .rel ++ (edge .sda .rel ++ endPrims)) by
      simp [stopPrims], runPrims_edge_sda _ _ _ _ _ _ _ _ h, runPrims_edge_scl _ _ _ _ _ _ _ _ h,
    runPrims_edge_sda _ _ _ _ _ _ _ _ h]
  have h' : ∀ b, (s.onBus (ls.at .rel .rel) b).master.snap = some (cfgScl, cfgSda) := fun _ => hsnap
  simp only [endPrims, runPrims, runPrim, h']
  rfl

/-- Begin (rule R222): the snapshot of the configuration, the lines owned and released. -/
theorem runPrims_begin :
    runPrims beginPrims q (s.onBus (ls.at scl sda) b) =
      .ok ({ q with todo := [] },
        { s with master := { s.master with owns := true, snap := some (ls.cfgScl, ls.cfgSda) } }.onBus
          { cfgScl := Config.mcfg, cfgSda := Config.mcfg, drvScl := .rel, drvSda := .rel } b.begin) := by
  rfl

end

end Sys2Proof.Machine
end

