-- ==== Sys2Proof/Laws/PerInstr.lean ====
section
/-! SUPPORT. One statement for every operation, proved constructor by constructor: a record is four header bytes and
its payload (rules R100, R112). -/

namespace Sys2Proof.Laws.EncodeLength

/-- The record of an operation is `4 + P` bytes, `P` being the length of its payload (rule R112). -/
def Statement (i : Instr) : Prop := (encode i).length = 4 + i.payload.length

theorem onStart (flags : Flags) : Statement (.onStart flags) := rfl
theorem onByte (byte : Byte) : Statement (.onByte byte) := rfl
theorem onStop (flags : Flags) : Statement (.onStop flags) := rfl
theorem onError (flags : Flags) : Statement (.onError flags) := rfl
theorem onTick1ms : Statement .onTick1ms := rfl
theorem respRead : Statement .respRead := rfl
theorem init (c : Bool) : Statement (.init c) := rfl
theorem reset : Statement .reset := rfl
theorem popMessage : Statement .popMessage := rfl
theorem setResponse (data : List Byte) : Statement (.setResponse data) := by simp [Statement, encode, Instr.payload]; omega
theorem getResponse : Statement .getResponse := rfl
theorem clearResponse : Statement .clearResponse := rfl
theorem mWrite (a : Byte) (data : List Byte) : Statement (.mWrite a data) := by
  simp [Statement, encode, Instr.payload]; omega
theorem mRead (a n : Byte) : Statement (.mRead a n) := rfl
theorem mWriteRead (a : Byte) (tx : List Byte) (n : Byte) : Statement (.mWriteRead a tx n) := by
  simp [Statement, encode, Instr.payload]; omega
theorem devWrite (mem : DevAddr) (data : List Byte) : Statement (.devWrite mem data) := by
  simp [Statement, encode, Instr.payload]; omega
theorem devRead (mem : DevAddr) (n : Byte) : Statement (.devRead mem n) := rfl

end Sys2Proof.Laws.EncodeLength
end

