-- ==== Sys2Proof/Tests/Slice0.lean ====
section
/-! SUPPORT. Tests of the model against the vectors of 95_test_vectors.md, which give every expected value below, and,
for each statement that has hypotheses, a state and operands that meet them. -/

namespace Sys2Proof.Tests.Slice0

open Sys2Proof Sys2Proof.Machine

/-! ### States -/

/-- `READY` of 95_test_vectors.md §0.1. -/
def ready : State :=
  { State.reset with life := .ready, cb := true, log := { State.reset.log with calllog := rearmEvents } }

/-- The interrupt context executes, and `NowMs()` draws `ts` next. -/
def irq (s : State) (ts : Timestamp) : State := { s with ctx := .irq, env := { s.env with now := [ts] } }

/-- A frame of these bytes is in progress. -/
def receiving (s : State) (bytes : List Byte) (ticks : Nat) : State :=
  { s with frame := { receiving := true, bytes, ticks } }

/-- A message of one byte. -/
def msg (b : Byte) : Message := { bytes := [b], length := 1, flags := 0, ts := 0 }

/-- The ring with `count` messages from `tail` on. -/
def queued (s : State) (tail count : Nat) : State :=
  { s with ring := {
      slots := [msg 0, msg 1, msg 2, msg 3, msg 4, msg 5, msg 6, msg 7], head := (tail + count) % 8, tail, count } }

/-- A response with its cursor. -/
def staged (s : State) (bytes : List Byte) (cursor : Nat) : State :=
  { s with resp := { bytes, length := bytes.length, cursor, pending := true } }

/-- The bus device's next draws. -/
def draws (s : State) (sda : List Bool) : State := { s with env := { s.env with sda } }

/-- The outcome is a next state of which `p` holds. -/
def gives (o : Host.Outcome State Fault Refusal) (p : State → Bool) : Bool :=
  match o with
  | .next t => p t
  | .fault _ => false
  | .refused _ => false

/-- The errors reported since `ready`. -/
def errors (t : State) : List (List Word) := t.log.errlog.map ErrorContext.words

/-! ### Well-formedness: a payload past the limit of a length field (decision D35) -/

/-- One byte more than a length field can name. -/
def tooLong : List Byte := List.replicate 256 0

theorem tooLong_length : tooLong.length = 256 := List.length_replicate

/-- As many bytes as a length field can name. -/
def longest : List Byte := List.replicate 255 0

theorem longest_length : longest.length = 255 := List.length_replicate

theorem test_wf_setResponse : (Instr.setResponse tooLong).wf = false := by
  rw [Instr.wf, Instr.payload, payloadFits, tooLong_length]; decide
theorem test_wf_mWrite : (Instr.mWrite 0x50 tooLong).wf = false := by
  rw [Instr.wf, Instr.payload, payloadFits, tooLong_length]; decide
theorem test_wf_mWriteRead : (Instr.mWriteRead 0x50 tooLong 1).wf = false := by
  rw [Instr.wf, Instr.payload, payloadFits, tooLong_length]; decide
theorem test_wf_devWrite : (Instr.devWrite 0 tooLong).wf = false := by
  rw [Instr.wf, Instr.payload, payloadFits, tooLong_length]; decide
theorem test_wf_longest : (Instr.devWrite 0 longest).wf = true := by
  rw [Instr.wf, Instr.payload, payloadFits, longest_length]; decide

/-! ### Decoding: one word for each operation, from 30_encoding.md and 95_test_vectors.md §2.1 and §3 -/

theorem test_decode_onStart : decode [0x10, 0x00, 0x12, 0x34] = .ok (.onStart 0x1234, []) := by decide
theorem test_decode_onByte : decode [0x11, 0x00, 0x00, 0x5A] = .ok (.onByte 0x5A, []) := by decide
theorem test_decode_onStop : decode [0x12, 0x00, 0x01, 0x00] = .ok (.onStop 0x0100, []) := by decide
theorem test_decode_onError : decode [0x13, 0x00, 0x00, 0x28] = .ok (.onError 0x0028, []) := by decide
theorem test_decode_onTick1ms : decode [0x14, 0x00, 0x00, 0x00] = .ok (.onTick1ms, []) := by decide
theorem test_decode_respRead : decode [0x15, 0x00, 0x00, 0x00] = .ok (.respRead, []) := by decide
theorem test_decode_init : decode [0x20, 0x00, 0x00, 0x01] = .ok (.init true, []) := by decide
theorem test_decode_init_nocb : decode [0x20, 0x00, 0x00, 0x00] = .ok (.init false, []) := by decide
theorem test_decode_reset : decode [0x21, 0x00, 0x00, 0x00] = .ok (.reset, []) := by decide
theorem test_decode_popMessage : decode [0x22, 0x00, 0x00, 0x00] = .ok (.popMessage, []) := by decide
theorem test_decode_setResponse :
    decode [0x23, 0x00, 0x03, 0x00, 0x10, 0x20, 0x30] = .ok (.setResponse [0x10, 0x20, 0x30], []) := by decide
theorem test_decode_getResponse : decode [0x24, 0x00, 0x00, 0x00] = .ok (.getResponse, []) := by decide
theorem test_decode_clearResponse : decode [0x25, 0x00, 0x00, 0x00] = .ok (.clearResponse, []) := by decide
theorem test_decode_mWrite : decode [0x30, 0xA0, 0x01, 0x00, 0x41] = .ok (.mWrite 0xA0 [0x41], []) := by decide
theorem test_decode_mRead : decode [0x31, 0x50, 0x03, 0x00] = .ok (.mRead 0x50 3, []) := by decide
theorem test_decode_mWriteRead :
    decode [0x32, 0x50, 0x02, 0x04, 0x00, 0x10] = .ok (.mWriteRead 0x50 [0x00, 0x10] 4, []) := by decide
theorem test_decode_devWrite :
    decode [0x33, 0x04, 0x00, 0x0E, 0x01, 0x02, 0x03, 0x04] =
      .ok (.devWrite 0x000E [0x01, 0x02, 0x03, 0x04], []) := by decide
theorem test_decode_devRead : decode [0x34, 0x04, 0x01, 0x23] = .ok (.devRead 0x0123 4, []) := by decide

theorem test_decode_nonzero_byte : decode [0x11, 0x00, 0x01, 0x5A] = .error .nonzeroField := by decide
theorem test_decode_nonzero_tick : decode [0x14, 0x00, 0x00, 0x01] = .error .nonzeroField := by decide
theorem test_decode_nonzero_init : decode [0x20, 0x00, 0x00, 0x02] = .error .nonzeroField := by decide
theorem test_decode_nonzero_read : decode [0x31, 0x50, 0x03, 0x01] = .error .nonzeroField := by decide
theorem test_decode_reserved : decode [0x16, 0x00, 0x00, 0x00] = .error .reservedOpcode := by decide
theorem test_decode_log_code : decode [0x40, 0x00, 0x00, 0x00] = .error .reservedOpcode := by decide
theorem test_decode_truncated : decode [0x23, 0x00, 0x03, 0x00, 0x10, 0x20] = .error .truncated := by decide

theorem test_table_word : decodeTableWord 32 0x34040123 = some (.devRead 0x0123 4) := by decide
theorem test_table_word_payload : decodeTableWord 32 0x30A00100 = some (.mWrite 0xA0 [0x00]) := by decide
theorem test_fetch_word : gives (step (State.reset.withFetchWord 32 0x20000001)) (fun t => t.life == .ready) = true := by
  decide
theorem test_fetch_word_irq :
    gives (step (State.reset.withFetchWord 32 0x11000055)) (fun t => t.log.refused == some .notInit) = true := by decide

/-! ### Slave interrupt-context operations (95_test_vectors.md §2.2) -/

theorem test_onStart_discards :
    gives (exec (.onStart 0) (irq (receiving ready [0x01] 3) 0))
      (fun t => t.frame == { receiving := true, bytes := [], ticks := 0 }) = true := by decide
/-- E1. -/
theorem test_onStart_before_init :
    gives (exec (.onStart 0) (irq State.reset 0)) (fun t => t.log.refused == some .notInit && !t.frame.receiving) =
      true := by decide
/-- E5. -/
theorem test_onByte_overrun :
    gives (exec (.onByte 0x21) (irq (receiving (queued ready 0 2) (List.replicate 32 0x5A) 0) 40))
      (fun t => errors t == [[0x50310000, 40]] && t.ring.count == 0 && !t.frame.receiving &&
        t.log.calllog == rearmEvents ++ rearmEvents) = true := by decide
/-- E4. -/
theorem test_onByte_fills :
    gives (exec (.onByte 0x20) (irq (receiving ready (List.replicate 31 0x5A) 4) 0))
      (fun t => t.frame.bytes.length == 32 && t.frame.ticks == 0 && t.log.errlog == []) = true := by decide
/-- E7. -/
theorem test_onStop_stray :
    gives (exec (.onStop 0x0040) (irq ready 5))
      (fun t => errors t == [[0x50600040, 5]] && t.log.calllog == rearmEvents && t.ring.count == 0) = true := by decide
/-- E10. -/
theorem test_onStop_full :
    gives (exec (.onStop 0x0100) (irq (receiving (queued ready 0 8) [0x77] 0) 8))
      (fun t => errors t == [[0x50310100, 8]] && t.ring.count == 8 && !t.frame.receiving) = true := by decide
/-- E13. -/
theorem test_onError_priority :
    gives (exec (.onError 0x0003) (irq (receiving (queued ready 0 2) [0x01] 0) 2))
      (fun t => errors t == [[0x50110003, 2]] && t.ring.count == 0 && t.frame.bytes == []) = true := by decide
/-- E17. -/
theorem test_onError_unnamed :
    gives (exec (.onError 0xFFC0) (irq ready 3)) (fun t => errors t == [[0x5060FFC0, 3]]) = true := by decide
/-- The last row of E21. -/
theorem test_onTick_timeout :
    gives (exec .onTick1ms (irq (receiving ready [] 4) 9))
      (fun t => errors t == [[0x50710000, 9]] && !t.frame.receiving) = true := by decide
/-- E22: four ticks make no report. -/
theorem test_onTick_counts :
    gives (exec .onTick1ms (irq (receiving ready [1, 2] 3) 9))
      (fun t => t.log.errlog == [] && t.frame == { receiving := true, bytes := [1, 2], ticks := 4 }) = true := by decide
/-- E24. -/
theorem test_respRead_serves :
    gives (exec .respRead (irq (staged ready [0x10, 0x20] 1) 0))
      (fun t => t.log.returns == [.byte 0x20] && t.resp.cursor == 2 && t.resp.pending) = true := by decide
theorem test_respRead_fills :
    gives (exec .respRead (irq (staged ready [0x10, 0x20] 2) 0))
      (fun t => t.log.returns == [.byte 0xFF] && t.resp.cursor == 2) = true := by decide

/-! ### Slave foreground operations (95_test_vectors.md §2.3) -/

/-- A1. -/
theorem test_init_ready :
    gives (exec (.init true) State.reset) (fun t => t.life == .ready && t.cb && t.log.calllog == rearmEvents) = true := by
  decide
/-- A6. -/
theorem test_init_again :
    gives (exec (.init false) (queued ready 0 2)) (fun t => !t.cb && t.ring.count == 0) = true := by decide
/-- A4. -/
theorem test_reset_clears :
    gives (exec .reset (staged (receiving (queued ready 0 3) [1] 0) [1] 0))
      (fun t => t.ring.count == 0 && !t.frame.receiving && t.resp == { bytes := [], length := 0, cursor := 0, pending := false } &&
        t.log.errlog == []) = true := by decide
/-- A8. -/
theorem test_pop_wraps :
    gives (exec .popMessage (queued ready 7 1))
      (fun t => t.log.returns == [.message (some (msg 7))] && t.ring.tail == 0 && t.ring.count == 0) = true := by decide
/-- A2. -/
theorem test_pop_before_init :
    gives (exec .popMessage State.reset) (fun t => t.log.refused == some .notInit && t.log.returns == []) = true := by
  decide
/-- A11. -/
theorem test_setResponse_too_long :
    gives (exec (.setResponse (List.replicate 33 0)) (staged ready [0x01] 1))
      (fun t => t.log.returns == [.accepted false] && t.resp == (staged ready [0x01] 1).resp) = true := by decide
/-- A12. -/
theorem test_setResponse_replaces :
    gives (exec (.setResponse [0x05]) (staged ready [0x01, 0x02] 2))
      (fun t => t.log.returns == [.accepted true] && t.resp == (staged ready [0x05] 0).resp) = true := by decide
/-- A13. -/
theorem test_getResponse_whole :
    gives (exec .getResponse (staged ready [0x01, 0x02] 2))
      (fun t => t.log.returns == [.response true [0x01, 0x02] 2] && t.resp.cursor == 2) = true := by decide
/-- 1.3. -/
theorem test_clearResponse_empties :
    gives (exec .clearResponse (staged ready [0x10, 0x20, 0x30] 0))
      (fun t => t.resp == { bytes := [], length := 0, cursor := 0, pending := false } && t.log.returns == []) = true := by
  decide

/-! ### Master operations (95_test_vectors.md §2.4 and §2.5) -/

/-- T1. -/
theorem test_norm :
    [normAddr 0x00, normAddr 0x7F, normAddr 0x80, normAddr 0xA0, normAddr 0xA1, normAddr 0xFF] = [0x00, 0x7F, 0x40, 0x50, 0x50, 0x7F] := by decide
/-- 1.8. -/
theorem test_address_bytes : addressW 0x50 = 0xA0 ∧ addressR 0x50 = 0xA1 := by decide
/-- D44: a timestamp of 16 bits is the low 16 bits of the draw. -/
theorem test_draw_cut :
    ({ irq ready 0x00010005 with cfg := { Params.reference with timestampWidth := 16 } }).drawNow.1 = 0x0005 := by decide
/-- T14. -/
theorem test_chunks_wrap : chunks 16 0xFFF8 12 = [{ m := 0xFFF8, off := 0, n := 8 }, { m := 0x0000, off := 8, n := 4 }] := by
  decide
/-- T16. -/
theorem test_chunks_exact : chunks 16 0x0010 16 = [{ m := 0x0010, off := 0, n := 16 }] := by decide
/-- 1.7, reading A. -/
theorem test_chunk_payloads :
    (chunkPayloads 16 0x0004 (List.replicate 20 0x01)).map (fun p => (p.take 2, p.length)) =
      [([0x00, 0x04], 14), ([0x00, 0x10], 10)] := by decide
/-- B1: the first step of Begin, and the rest of it still to come. -/
theorem test_mWrite_begins :
    gives (exec (.mWrite 0xA0 [0x41]) State.reset)
      (fun t => t.master.owns && t.log.calllog == [.snap] && t.log.returns == [] &&
        t.master.seq.map Seq.todo == some (edge .sda .rel ++ edge .scl .rel)) = true := by decide
/-- T21. -/
theorem test_mWrite_wrong_context :
    gives (exec (.mWrite 0x50 [0x01]) (irq ready 0))
      (fun t => t.log.refused == some .wrongContext && t.log.calllog == rearmEvents) = true := by decide
/-- T22: no INIT is needed. -/
theorem test_mRead_before_init :
    gives (exec (.mRead 0x50 2) State.reset) (fun t => t.master.owns && t.log.refused == none) = true := by decide
/-- T6. -/
theorem test_mRead_zero :
    gives (exec (.mRead 0x50 0) State.reset) (fun t => t.log.returns.length == 1 && t.log.calllog == []) = true := by decide
/-- T9. -/
theorem test_mWriteRead_empty :
    gives (exec (.mWriteRead 0x50 [] 2) State.reset) (fun t => t.log.returns.length == 1 && t.log.calllog == []) = true := by
  decide
/-- T11: the transaction to come. -/
theorem test_mWriteRead_acts :
    gives (exec (.mWriteRead 0x50 [0x00, 0x10] 2) State.reset)
      (fun t => t.master.seq.map Seq.acts == some [.start, .write 0xA0, .write 0x00, .write 0x10, .start, .write 0xA1,
        .read false, .read true]) = true := by decide
/-- 1.7, reading B: the first chunk's bytes on the bus, and the second chunk still to write. -/
theorem test_devWrite_first_chunk :
    gives (exec (.devWrite 0x000E [1, 2, 3, 4]) State.reset)
      (fun t => t.master.seq.map (fun q => (q.acts, q.job)) ==
        some ([.start, .write 0xA0, .write 0x00, .write 0x0E, .write 1, .write 2], .chunk [[0x00, 0x10, 3, 4]])) = true := by
  decide
/-- T19. -/
theorem test_devWrite_empty :
    gives (exec (.devWrite 0 []) State.reset) (fun t => t.log.returns == [.done false] && t.log.calllog == []) = true := by
  decide
/-- T20: the transaction to come. -/
theorem test_devRead_acts :
    gives (exec (.devRead 0x0123 2) State.reset)
      (fun t => t.master.seq.map Seq.acts == some [.start, .write 0xA0, .write 0x01, .write 0x23, .start, .write 0xA1,
        .read false, .read true]) = true := by decide
/-- B5: the levels of SDA across the bits of 0xA0, and the length of a WriteByte. -/
theorem test_writeByte_prims :
    (writeBytePrims 0xA0).length = 55 ∧
    (msbFirst.map (fun i => driveOf ((0xA0 : Byte).getLsbD i))) = [.rel, .low, .rel, .low, .low, .low, .low, .low] := by
  decide
/-- B7: the bits 0,1,0,0,0,0,0,1 make 0x41, and a ReadByte makes 48 entries. -/
theorem test_readByte_bits :
    (readBytePrims false).length = 48 ∧
    (msbFirst.zip [false, true, false, false, false, false, false, true]).foldl (fun x b => putBit x b.1 b.2) 0 = 0x41 := by
  decide
/-- 1.6: the log words. -/
theorem test_log_words :
    [(Event.line .sda .rel).word, (Event.line .sda .low).word, (Event.line .scl .rel).word, (Event.line .scl .low).word,
      Event.delay.word, (Event.sample true).word, Event.snap.word, Event.restore.word] =
      [0x41000101, 0x41000100, 0x41000001, 0x41000000, 0x42000000, 0x43000001, 0x44000000, 0x45000000] := by decide

/-! ### Witnesses: for each statement with hypotheses, what meets them; a clause at a time, at the ends of its range -/

/-- `exec` or `step` answers a next state. -/
def isNext (o : Host.Outcome State Fault Refusal) : Bool := gives o (fun _ => true)

theorem next_of_isNext (o : Host.Outcome State Fault Refusal) (h : isNext o = true) : ∃ t, o = .next t := by
  cases o with
  | next t => exact ⟨t, rfl⟩
  | fault f => cases h
  | refused r => cases h

/-- A ring one short of full, a frame in progress. -/
def busy : State := receiving (queued ready 7 7) [0x77] 4

/-- A master operation running: after its first step, with the lines owned. -/
def running : State :=
  match exec (.mWrite 0x50 [0x01]) ready with
  | .next t => t
  | .fault _ => ready
  | .refused _ => ready

/-- A master operation at its last step but one, the lines given back. -/
def closing : Seq :=
  { todo := [.call .busStart, .call .busRearmSlaveReceive], stage := .closing, acts := [], ok := true, rx := 0, buf := [],
    job := .write }

/-- A master operation about to give the lines back. -/
def restoring : State :=
  { ready with
    master := { owns := true, snap := some (Config.cfg0, Config.cfg0), seq := some { closing with todo := endPrims } }
    lines := { cfgScl := Config.mcfg, cfgSda := Config.mcfg, drvScl := .rel, drvSda := .rel } }

/-- Both agents have an operation, and the schedule names the IRQ agent. -/
def both (a : Agent) : State :=
  { ready with env := { ready.env with
      fgStream := [0x22, 0, 0, 0], irqStream := [0x11, 0, 0, 0x5A], turns := [a] } }

/-- One agent alone has a stream, of these bytes. -/
def alone (a : Agent) (bytes : List Byte) : State := ready.setStream a bytes

-- Encoding
theorem witness_DecodeOfEncode : (Instr.mWrite 0xFF longest).wf = true := by
  rw [Instr.wf, Instr.payload, payloadFits, longest_length]; decide
theorem witness_EncodeOfDecode : ∃ i rest, decode [0x23, 0, 1, 0, 0xAA, 0x11] = .ok (i, rest) := ⟨_, _, rfl⟩
theorem witness_FormatsGiveTheirFields : (0xFF : Byte).toNat ≤ longest.length ∧ (0 : Byte).toNat ≤ ([] : List Byte).length := by
  rw [longest_length]; decide
theorem witness_TruncatedRecordsAreRefused :
    (Instr.setResponse longest).wf = true ∧ 258 < (encode (.setResponse longest)).length ∧
      1 < (encode (.setResponse longest)).length ∧ 0 < 1 := by
  refine ⟨by rw [Instr.wf, Instr.payload, payloadFits, longest_length]; decide, ?_, ?_, by decide⟩ <;>
    simp [encode, longest_length]
theorem witness_RecordLengthIsInTheHeader : ∃ i rest, decode [0x33, 1, 0, 0x10, 0xAB] = .ok (i, rest) := ⟨_, _, rfl⟩
theorem witness_LogWordsAreInjective : (Event.sample true).word = (Event.sample true).word := rfl

-- Admission
theorem witness_IrqOperationsOutOfPlace :
    (Instr.onByte 1).agent = .irq ∧ ready.ctx = .fg ∧ ready.life = .ready ∧ (irq State.reset 0).ctx = .irq ∧
      (irq State.reset 0).life = .uninit ∧ State.reset.ctx = .fg ∧ State.reset.life = .uninit := by decide
theorem witness_ForegroundOperationsOutOfPlace :
    Instr.popMessage.agent = .fg ∧ (Instr.mRead 0 1).needsInit = false ∧ Instr.popMessage.needsInit = true ∧
      (irq ready 0).ctx = .irq ∧ (irq ready 0).life = .ready ∧ State.reset.ctx = .fg ∧ State.reset.life = .uninit ∧
      (irq State.reset 0).ctx = .irq ∧ (irq State.reset 0).life = .uninit := by decide
theorem witness_OverlongPayloads : Admitted (.mWrite 0 tooLong) ready ∧ (Instr.mWrite 0 tooLong).wf = false :=
  ⟨⟨rfl, fun _ => rfl⟩, test_wf_mWrite⟩

-- Slave interrupt-context operations
theorem witness_OnStart : Admitted (.onStart 0) (irq ready 0) := ⟨rfl, fun _ => rfl⟩
theorem witness_OnByte :
    Admitted (.onByte 0) (irq ready 0) ∧ (irq ready 0).frame.receiving = false ∧
    Admitted (.onByte 0) (irq (receiving ready (List.replicate 31 0) 0) 0) ∧
    (receiving ready (List.replicate 31 0) 0).frame.bytes.length < ready.cfg.frameMax ∧
    Admitted (.onByte 0) (irq (receiving ready (List.replicate 32 0) 0) 0) ∧
    ready.cfg.frameMax ≤ (receiving ready (List.replicate 32 0) 0).frame.bytes.length :=
  ⟨⟨rfl, fun _ => rfl⟩, rfl, ⟨rfl, fun _ => rfl⟩, by decide, ⟨rfl, fun _ => rfl⟩, by decide⟩
theorem witness_OnStop :
    (∀ s, s.life = .ready → Admitted (.onStop 0) (irq s 0)) ∧
    ready.life = .ready ∧ ready.frame.receiving = false ∧
    { receiving ready [] 0 with cfg := { Params.reference with enqueueEmpty := false } }.cfg.enqueueEmpty = false ∧
    (receiving ready [] 0).frame.receiving = true ∧ (receiving ready [] 0).frame.bytes = [] ∧
    (receiving (queued ready 0 8) [1] 0).frame.receiving = true ∧ (receiving (queued ready 0 8) [1] 0).frame.bytes ≠ [] ∧
    (queued ready 0 8).ring.count = ready.cfg.ringCapacity ∧
    (queued ready 0 7).ring.count < ready.cfg.ringCapacity ∧ ready.cfg.enqueueEmpty = true :=
  ⟨fun s h => ⟨rfl, fun _ => h⟩, by decide⟩
theorem witness_OnStop_draw : (irq busy 5).env.now = [5] ∧ (irq busy 5).cfg.timestampWidth = 32 := by decide
theorem witness_OnError : Admitted (.onError 0) (irq busy 0) := ⟨rfl, fun _ => rfl⟩
theorem witness_Classify :
    Params.reference.flagsWidth = 16 ∧
    (0x3F : Flags).getLsbD 0 = true ∧ ((0x3E : Flags).getLsbD 0 = false ∧ (0x3E : Flags).getLsbD 1 = true) ∧
    ((0x3C : Flags).getLsbD 1 = false ∧ (0x3C : Flags).getLsbD 2 = true) ∧
    ((0x38 : Flags).getLsbD 2 = false ∧ (0x38 : Flags).getLsbD 3 = true) ∧
    ((0x30 : Flags).getLsbD 3 = false ∧ (0x30 : Flags).getLsbD 4 = true) ∧
    ((0x20 : Flags).getLsbD 4 = false ∧ (0x20 : Flags).getLsbD 5 = true) ∧
    (∀ b ∈ [0, 1, 2, 3, 4, 5], (0xFFC0 : Flags).getLsbD b = false) := by decide
/-- A word of 4 bits has no Line Stuck bit at position 4. -/
theorem witness_ClassifyReadsTheWidth :
    ∀ b, (0x0008 : Flags).getLsbD b =
      (decide (b < { Params.reference with flagsWidth := 4 }.flagsWidth) && (0x0018 : Flags).getLsbD b) := by
  intro b
  by_cases h : b < 16
  · revert b; decide
  · rw [BitVec.getLsbD_of_ge _ b (by omega), BitVec.getLsbD_of_ge _ b (by omega), Bool.and_false]
theorem witness_NowMs : (irq ready 7).env.now = [7] ∧ (irq ready 7).cfg.timestampWidth = 32 ∧ ready.env.now = [] := by decide
theorem witness_OnTick :
    Admitted .onTick1ms (irq (receiving ready [] 3) 0) ∧ (receiving ready [] 3).frame.receiving = true ∧
    min (3 + 1) (2 ^ ready.cfg.ticksWidth - 1) < ready.cfg.slaveTimeout ∧
    Admitted .onTick1ms (irq (receiving ready [] 4) 0) ∧
    ready.cfg.slaveTimeout ≤ min (4 + 1) (2 ^ ready.cfg.ticksWidth - 1) ∧ ready.frame.receiving = false :=
  ⟨⟨rfl, fun _ => rfl⟩, rfl, by decide, ⟨rfl, fun _ => rfl⟩, by decide, rfl⟩
theorem witness_RespRead :
    Admitted .respRead (irq (staged ready [0x10, 0x20] 1) 0) ∧ (staged ready [0x10, 0x20] 1).resp.pending = true ∧
    (staged ready [0x10, 0x20] 1).resp.cursor < (staged ready [0x10, 0x20] 1).resp.length ∧
    (staged ready [0x10, 0x20] 1).resp.bytes[(staged ready [0x10, 0x20] 1).resp.cursor]? = some 0x20 ∧
    (staged ready [0x10, 0x20] 2).resp.length ≤ (staged ready [0x10, 0x20] 2).resp.cursor ∧ ready.resp.pending = false :=
  ⟨⟨rfl, fun _ => rfl⟩, by decide⟩
theorem witness_IrqOperationsAreBounded :
    (Instr.onError 1).agent = .irq ∧ ∃ t, exec (.onError 1) (irq busy 0) = .next t :=
  ⟨rfl, next_of_isNext _ (by decide)⟩
theorem witness_IrqOperationsIgnoreTheLines :
    (Instr.onError 1).agent = .irq ∧ ∃ t, exec (.onError 1) (irq running 0) = .next t :=
  ⟨rfl, next_of_isNext _ (by decide)⟩
theorem witness_RearmDuringMaster :
    (irq running 0).master.owns = true ∧
    gives (exec (.onError 1) (irq running 0)) (fun t => t.log.calllog != running.log.calllog) = true ∧
    (irq busy 0).master.owns = false ∧ isNext (exec (.onError 1) (irq busy 0)) = true := by decide

-- Slave foreground operations
theorem witness_Init : State.reset.ctx = .fg ∧ ready.ctx = .fg := by decide
theorem witness_Reset : Admitted .reset busy := ⟨rfl, fun _ => rfl⟩
theorem witness_ResetIsIdempotent : ∃ t u, exec .reset busy = .next t ∧ exec .reset t = .next u := ⟨_, _, rfl, rfl⟩
theorem witness_Pop :
    Admitted .popMessage (queued ready 7 1) ∧ 0 < (queued ready 7 1).ring.count ∧
    (queued ready 7 1).ring.slots[(queued ready 7 1).ring.tail]? = some (msg 7) ∧
    Admitted .popMessage ready ∧ ready.ring.count = 0 :=
  ⟨⟨rfl, fun _ => rfl⟩, by decide, by decide, ⟨rfl, fun _ => rfl⟩, rfl⟩
theorem witness_SetResponse :
    (∀ data, Admitted (.setResponse data) ready) ∧ longest.length ≤ 255 ∧ ready.cfg.respMax < longest.length ∧
    ready.cfg.respMax < (List.replicate 33 (0 : Byte)).length ∧ (List.replicate 32 (0 : Byte)).length ≤ ready.cfg.respMax ∧
    List.replicate 32 (0 : Byte) ≠ [] := by
  refine ⟨fun _ => ⟨rfl, fun _ => rfl⟩, ?_⟩
  rw [longest_length]
  decide
theorem witness_GetResponse : Admitted .getResponse ready := ⟨rfl, fun _ => rfl⟩
theorem witness_ClearResponse : Admitted .clearResponse ready := ⟨rfl, fun _ => rfl⟩
theorem witness_OnlyInit :
    gives (step (State.reset.withFetchWord 32 0x20000001)) (fun t => t.life != State.reset.life && t.cb) = true ∧
    isNext (step (both .fg)) = true ∧ (both .fg).life = .ready := by decide

-- The invariant, and the ring
theorem witness_inv_busy : busy.Inv := by
  constructor <;> first | decide | (intro q h; cases h)
theorem witness_inv_running : running.Inv := by
  constructor
  case cfgOwned => exact fun _ => ⟨rfl, rfl⟩
  case seqOk => intro q h; cases h; exact ⟨by decide, by decide⟩
  all_goals decide
theorem witness_inv_restoring : restoring.Inv := by
  constructor
  case cfgOwned => exact fun _ => ⟨rfl, rfl⟩
  case seqOk => intro q h; cases h; exact ⟨by decide, by decide⟩
  all_goals decide
theorem inv_both (a : Agent) : (both a).Inv := by
  cases a <;> constructor <;> first | decide | (intro q h; cases h)
theorem witness_RingIsFirstInFirstOut :
    busy.life = .ready ∧ busy.frame.receiving = true ∧ busy.frame.bytes ≠ [] ∧
    busy.ring.count < busy.cfg.ringCapacity ∧
    busy.queue = msg 7 :: [msg 0, msg 1, msg 2, msg 3, msg 4, msg 5] := by decide
theorem witness_QueueKeepsItsOrder : (both .fg).Inv ∧ ∃ t, step (both .fg) = .next t :=
  ⟨inv_both _, next_of_isNext _ (by decide)⟩

-- Master operations
theorem witness_ChunksRespectPages :
    1 ≤ 16 ∧ 16 ∣ 2 ^ 16 ∧ { m := 0xFFF8, off := 0, n := 8 } ∈ (chunks 16 0xFFF8 12).dropLast ∧
      { m := 0x0000, off := 8, n := 4 } ∈ (chunks 16 0xFFF8 12).tail := by decide
theorem witness_PrimitivesHaveTheirEffect :
    [Prim.delay] ≠ [] ∧ running.master.owns = true ∧ { running with lines := running.lines.drive .sda .low }.lines.drvSda = .low ∧
      (draws running [true]).lines.drvSda = .rel ∧ (draws running [true]).env.sda = [true] ∧
      (∃ l d, Prim.line .scl .low = .line l d) ∧ ready.master.owns = false :=
  ⟨by decide, rfl, rfl, rfl, rfl, ⟨_, _, rfl⟩, rfl⟩
theorem witness_ZeroLengths :
    ready.ctx = .fg ∧ ready.master.seq = none ∧ ([] : List Byte).length ≤ 255 ∧ longest.length ≤ 255 := by
  rw [longest_length]; decide

/-- The draws of a device that ACKs the address and one byte more, and one that is absent. -/
theorem witness_MasterWrite :
    ready.ctx = .fg ∧
    (Bus.mWrite { draws := [false, false], log := [] } (normAddr 0x50) [0x01]).map Prod.fst = some true ∧
    (Bus.mWrite { draws := [true], log := [] } (normAddr 0x50) [0x01]).map Prod.fst = some false := by decide
/-- The device drives 0x5A, or is absent. -/
theorem witness_MasterRead :
    (1 : Byte) ≠ 0 ∧
    (Bus.mRead { draws := [false, false, true, false, true, true, false, true, false], log := [] } (normAddr 0x50) 1).map
      (fun r => (r.1, r.2.1)) = some (true, [0x5A]) ∧
    (Bus.mRead { draws := [true], log := [] } (normAddr 0x50) 1).map Prod.fst = some false := by decide
theorem witness_MasterWriteRead :
    (Bus.writeRead { draws := [false, false, false, false, true, false, true, true, false, true, false], log := [] }
      (normAddr 0x50) [0x00] 1).map (fun r => (r.1, r.2.1)) = some (true, [0x5A]) ∧
    (Bus.writeRead { draws := [false, false, true], log := [] } (normAddr 0x50) [0x00] 1).map Prod.fst = some false := by
  decide
/-- Probe 1 is NACKed, and probe 2 ACKed. -/
theorem witness_DevWrite :
    (Bus.devWrite 0x50 3 ((chunks 16 0x0010 1).map (fun c => hiByte c.m :: loByte c.m :: ([0xAB].drop c.off).take c.n))
      { draws := [false, false, false, false, true, false], log := [] }).map Prod.fst = some true := by decide +kernel
theorem witness_DevRead :
    (Bus.writeRead { draws := [false, false, false, false, false, true, false, true, true, false, true, false], log := [] }
      0x50 [hiByte 0x0123, loByte 0x0123] 1).map (fun r => (r.1, r.2.1)) = some (true, [0x5A]) := by decide
theorem witness_MasterOperationsEndInBound :
    (both .fg).Inv ∧ (both .fg).master.seq = none ∧ isMaster (.mWrite 0x50 longest) = true ∧
      (Instr.mWrite 0x50 longest).wf = true :=
  ⟨inv_both _, rfl, rfl, by rw [Instr.wf, Instr.payload, payloadFits, longest_length]; decide⟩
theorem witness_MasterStepsComeNearer :
    closing.todo ≠ [] ∧ gives (masterStep closing ready) (fun t => t.master.seq.isSome) = true := by decide
theorem witness_MasterStepsLeaveTheEngine :
    ready.ctx = .fg ∧ isNext (masterStep closing ready) = true ∧ isMaster (.mWrite 0x50 [1]) = true ∧
      isNext (exec (.mWrite 0x50 [1]) ready) = true := by decide
theorem witness_SnapshotIsRestored :
    -- the lines are not owned before or after; they come to be owned; they stay owned; they are given back
    gives (step (both .irq)) (fun t => !t.master.owns) = true ∧
    gives (step (alone .fg [0x31, 0x50, 1, 0])) (fun t => t.master.owns) = true ∧
    gives (step running) (fun t => t.master.owns) = true ∧ gives (step restoring) (fun t => !t.master.owns) = true := by
  decide

-- The whole machine
theorem witness_StepKeepsTheInvariant : running.Inv ∧ isNext (step running) = true := ⟨witness_inv_running, by decide⟩
theorem witness_StepNeverStops : running.Inv ∧ restoring.Inv ∧ busy.Inv :=
  ⟨witness_inv_running, witness_inv_restoring, witness_inv_busy⟩
theorem witness_LogsOnlyGrow : ∃ t, step (both .irq) = .next t := next_of_isNext _ (by decide)
theorem witness_ConfigurationAndStreams : ∃ t, step (both .fg) = .next t := next_of_isNext _ (by decide)
theorem witness_PositionsAdvanceByOne :
    (both .irq).chooseAgent.isSome = true ∧ running.chooseAgent.isSome = true ∧
    gives (step (both .irq)) (fun t => t.irqPc == 1) = true ∧ gives (step (both .fg)) (fun t => t.fgPc == 1) = true ∧
    gives (step running) (fun t => t.fgPc == 0 && t.irqPc == 0) = true := by decide
theorem witness_ScheduleNamesTheAgent :
    (both .irq).fgReady = true ∧ (both .irq).irqReady = true ∧ (both .irq).env.turns = [.irq] ∧
    { both .irq with env := { (both .irq).env with turns := [] } }.fgReady = true ∧
    { both .irq with env := { (both .irq).env with turns := [] } }.irqReady = true ∧
    (alone .fg [0x21, 0, 0, 0]).fgReady = true ∧ (alone .fg [0x21, 0, 0, 0]).irqReady = false ∧
    (alone .irq [0x14, 0, 0, 0]).fgReady = false ∧ (alone .irq [0x14, 0, 0, 0]).irqReady = true ∧
    ready.fgReady = false ∧ ready.irqReady = false := by decide
theorem witness_StepRunsTheDecodedOperation :
    (∃ s', (both .irq).chooseAgent = some (.irq, s') ∧ decode s'.env.irqStream = .ok (.onByte 0x5A, [])) ∧
    (∃ s', (both .fg).chooseAgent = some (.fg, s') ∧ s'.master.seq = none ∧
      decode s'.env.fgStream = .ok (.popMessage, [])) :=
  ⟨⟨_, rfl, rfl⟩, ⟨_, rfl, rfl, rfl⟩⟩
theorem witness_RefusedRecordsAreMarked :
    (∃ s', (alone .irq [0x16, 0, 0, 0]).chooseAgent = some (.irq, s') ∧
      decode s'.env.irqStream = .error .reservedOpcode) ∧
    (∃ s', (alone .fg [0x23, 0, 3, 0, 0x10]).chooseAgent = some (.fg, s') ∧ s'.master.seq = none ∧
      decode s'.env.fgStream = .error .truncated) :=
  ⟨⟨_, rfl, rfl⟩, ⟨_, rfl, rfl, rfl⟩⟩
theorem witness_StepResumesTheMaster :
    ∃ s' q, running.chooseAgent = some (.fg, s') ∧ running.master.seq = some q := ⟨_, _, rfl, rfl⟩

end Sys2Proof.Tests.Slice0
end

/-! PROOFS. The environment of the machine: the draw of a timestamp and the width of a status word (rules R9, R6), and
that no stream, no draw and no schedule stops the machine (rules R10, R303). -/

namespace Sys2Proof

/-! ### What decodes has a payload that fits (decision D35) -/

/-- The payload an 8-bit length field takes off a stream fits. -/
theorem payloadFits_take (len : Byte) (rest : List Byte) : payloadFits (rest.take len.toNat) = true := by
  have hlen : len.toNat < 256 := len.isLt
  rw [payloadFits_iff, List.length_take]
  omega

theorem plainRecord_wf {zeros : Bool} {i j : Instr} {rest rest' : List Byte} (hi : i.wf = true)
    (h : plainRecord zeros i rest = .ok (j, rest')) : j.wf = true := by
  obtain ⟨-, rfl, -⟩ := (plainRecord_ok ..).mp h
  exact hi

theorem payloadRecord_wf {zeros : Bool} {len : Byte} {mk : List Byte → Instr} {j : Instr} {rest rest' : List Byte}
    (hmk : ∀ data, (mk data).payload = data) (h : payloadRecord zeros len mk rest = .ok (j, rest')) : j.wf = true := by
  obtain ⟨-, -, rfl, -⟩ := (payloadRecord_ok ..).mp h
  rw [Instr.wf, hmk]
  exact payloadFits_take len rest

theorem decodeRecord_wf {op b2 b1 b0 : Byte} {rest rest' : List Byte} {i : Instr}
    (h : decodeRecord op b2 b1 b0 rest = .ok (i, rest')) : i.wf = true := by
  unfold decodeRecord at h
  split at h
  case h_10 | h_13 | h_15 | h_16 => exact payloadRecord_wf (fun _ => rfl) h
  case h_18 => cases h
  all_goals exact plainRecord_wf rfl h

/-- Every decoded operation has a record: its payload fits. -/
theorem decode_wf {bs rest : List Byte} {i : Instr} (h : decode bs = .ok (i, rest)) : i.wf = true := by
  unfold decode at h
  split at h
  · exact decodeRecord_wf h
  · cases h

end Sys2Proof

namespace Sys2Proof.Machine

/-! ### An operation that has a record answers a next state, whatever the state is -/

theorem next_ite {c : Prop} [Decidable c] {x y : Host.Outcome State Fault Refusal} (hx : ∃ t, x = .next t)
    (hy : ∃ t, y = .next t) : ∃ t, (if c then x else y) = .next t := by
  split
  · exact hx
  · exact hy

/-- A payload that fits passes the check of decision D35. -/
theorem payloadCheck_next {data : List Byte} {r : Refusal} {o : Host.Outcome State Fault Refusal}
    (hfits : payloadFits data = true) (ho : ∃ t, o = .next t) :
    ∃ t, (if !payloadFits data then .refused r else o) = .next t := by
  rw [hfits]
  exact ho

/-- An operation that is not admitted is marked and consumed, so only its body can stop. -/
theorem whenAdmitted_next {a : Agent} {needsInit : Bool} {s : State} {body : State → Host.Outcome State Fault Refusal}
    (h : ∃ t, body s = .next t) : ∃ t, whenAdmitted a needsInit s body = .next t := by
  obtain ⟨-, -, heq⟩ | ⟨-, -, heq⟩ | ⟨-, -, -, heq⟩ | ⟨-, -, -, heq⟩ := whenAdmitted_cases a needsInit s body
  · rw [heq]; exact h
  all_goals exact ⟨_, heq⟩

/-- The first step of Begin is performed in every state (rule R222). -/
theorem masterStep_openTxn (job : Job) (acts : List Act) (s : State) :
    masterStep (openTxn job acts) s =
      .next (s.takeLines.goOn { openTxn job acts with todo := edge .sda .rel ++ edge .scl .rel }) :=
  rfl

/-- The body of an operation is a sequence of tests. Every branch past the payload check goes on: those of the master
operations to an answer, or to the first step of Begin. -/
theorem exec_next {i : Instr} (s : State) (hwf : i.wf = true) : ∃ t, exec i s = .next t := by
  cases i <;> apply whenAdmitted_next
  case onStart | onError | init | reset | clearResponse => exact ⟨_, rfl⟩
  case onStop | respRead | popMessage | getResponse => exact next_ite ⟨_, rfl⟩ ⟨_, rfl⟩
  case onByte | onTick1ms => exact next_ite ⟨_, rfl⟩ (next_ite ⟨_, rfl⟩ ⟨_, rfl⟩)
  case setResponse => exact payloadCheck_next hwf (next_ite ⟨_, rfl⟩ (next_ite ⟨_, rfl⟩ ⟨_, rfl⟩))
  case mRead | devRead => exact next_ite ⟨_, rfl⟩ ⟨_, masterStep_openTxn ..⟩
  case mWrite | mWriteRead => exact payloadCheck_next hwf (next_ite ⟨_, rfl⟩ ⟨_, masterStep_openTxn ..⟩)
  case devWrite mem data =>
    refine payloadCheck_next hwf (next_ite ⟨_, rfl⟩ ?_)
    cases chunkPayloads s.cfg.pageSize mem data with
    | nil => exact ⟨_, rfl⟩
    | cons p rest => exact ⟨_, masterStep_openTxn ..⟩

/-! ### A master operation at a position the invariant admits goes on -/

/-- Every primitive left is performed in its place, so the next one does not stop (rule R221). -/
theorem masterStep_next {q : Seq} {s : State} (hq : q.Ok s.master.owns)
    (hsnap : s.master.snap.isSome = s.master.owns) : ∃ t, masterStep q s = .next t := by
  obtain ⟨hne, howns⟩ := hq
  obtain ⟨p, rest, htodo⟩ := List.exists_cons_of_ne_nil hne
  rw [htodo] at howns
  obtain ⟨q', s', hrun, -, -⟩ := runPrim_owns (q := { q with todo := rest }) howns hsnap
  obtain ⟨f, hfault, -⟩ | ⟨_, _, -, hstep⟩ := masterStep_cons (s := s) htodo
  · rw [hrun] at hfault
    cases hfault
  · exact ⟨_, hstep⟩

/-! ### What the next action is -/

/-- Choosing an agent moves the schedule on, or takes a free value, and changes nothing else. -/
theorem State.chooseAgent_state {s s' : State} {a : Agent} (h : s.chooseAgent = some (a, s')) :
    s' = { s with env := { s.env with turns := s'.env.turns, drawn := s'.env.drawn } } := by
  unfold State.chooseAgent at h
  split at h
  · cases h
  · cases h; rfl
  · cases h; rfl
  · split at h <;> (cases h; rfl)

/-- A fetch issues an operation that has a record, or finds a refused one. -/
theorem State.fetch_cases (s : State) (a : Agent) :
    (∃ i t, s.fetch a = .issue i t ∧ i.wf = true) ∨ ∃ t, s.fetch a = .malformed t := by
  unfold State.fetch
  cases hd : decode (s.stream a) with
  | ok r => exact .inl ⟨_, _, rfl, decode_wf hd⟩
  | error e => exact .inr ⟨_, rfl⟩

/-- Everything the next action can be. -/
theorem State.nextAction_cases (s : State) :
    s.nextAction = .idle ∨
    (∃ q t, s.nextAction = .resume q t ∧ s.master.seq = some q ∧ t.master = s.master) ∨
    (∃ i t, s.nextAction = .issue i t ∧ i.wf = true) ∨
    ∃ t, s.nextAction = .malformed t := by
  unfold State.nextAction
  cases hc : s.chooseAgent with
  | none => exact .inl rfl
  | some choice =>
    obtain ⟨a, s'⟩ := choice
    have hmaster : s'.master = s.master := by rw [State.chooseAgent_state hc]
    cases a with
    | irq => exact .inr (.inr ((s'.enter .irq).fetch_cases .irq))
    | fg =>
      dsimp only
      cases hseq : s'.master.seq with
      | some q => exact .inr (.inl ⟨q, _, rfl, by rw [← hmaster, hseq], hmaster⟩)
      | none => exact .inr (.inr ((s'.enter .fg).fetch_cases .fg))

/-! ### A draw that is not given, and the flags a kind is read from -/

/-- Where the environment has given no draw, `NowMs()` takes a free value. -/
theorem State.drawNow_none (s : State) (h : s.env.now = []) :
    s.drawNow = (cutTimestamp s.cfg.timestampWidth (Config.freeNow s.env.drawn), s.countDraw) := by
  simp [State.drawNow, h]

/-- A kind is read from the flags alone: two widths and words that set the same flags classify alike. -/
theorem classify_congr {p : Params} {width : Nat} {flags word : Flags}
    (h : ∀ b, flagSet p flags b = flagSet { p with flagsWidth := width } word b) :
    classify p flags = classify { p with flagsWidth := width } word := by
  simp only [classify, h]

/-! ### The statements -/

/-- Settles O50: an issued operation was decoded, and so has a payload that fits and answers a next state in any state;
a resumed one stands at a position whose every primitive is in its place, by the invariant. -/
theorem stepNeverStops : Obligations.StepNeverStops := by
  intro s hinv
  unfold step
  obtain h | ⟨q, t, h, hseq, hmaster⟩ | ⟨i, t, h, hwf⟩ | ⟨t, h⟩ := s.nextAction_cases <;> rw [h]
  · exact ⟨s, rfl⟩
  · exact masterStep_next (hmaster ▸ hinv.seqOk q hseq) (hmaster ▸ hinv.snapOwned)
  · exact exec_next t hwf
  · exact ⟨_, rfl⟩

/-- Settles O59, by whether a draw is given. -/
theorem nowMsIsTheNextDraw : Obligations.NowMsIsTheNextDraw := by
  refine fun s => ⟨fun ts rest hnow => ?_, fun hnow => ?_, s.drawNow_lt⟩
  · rw [s.drawNow_given ts rest hnow]
    exact ⟨rfl, cutTimestamp_toNat _ ts, fun hwidth => by rw [hwidth, cutTimestamp_full]⟩
  · rw [s.drawNow_none hnow]
    rfl

/-- Settles O60: the word has a flag set, at the full width, exactly where the status word has it within its width. -/
theorem classifyReadsTheWidthOfTheWord : Obligations.ClassifyReadsTheWidthOfTheWord := by
  intro p flags word hword
  refine classify_congr fun b => ?_
  rw [flagSet_full _ word b rfl, hword b, flagSet]

end Sys2Proof.Machine

/-! PROOFS. What a step keeps (10_state.md): a step is inverted once into the writes it can make, and the invariant, the
growth of the logs, the streams, the positions and the registration of INIT are read from that. -/

namespace Sys2Proof.Machine

/-! ### What the slave engine can write -/

/-- `EngineRun s t`: the slave engine leads from `s` to `t` within one operation, each constructor being one of its
writes with the test that guards it. -/
inductive EngineRun (s : State) : State → Prop
  | refl : EngineRun s s
  | countDraw {u : State} (h : EngineRun s u) : EngineRun s u.countDraw
  | drawNow {u : State} (h : EngineRun s u) : EngineRun s u.drawNow.2
  | refuse {u : State} (r : RefusalMark) (h : EngineRun s u) : EngineRun s (u.refuse r)
  | give {u : State} (r : Return) (h : EngineRun s u) : EngineRun s (u.give r)
  | report {u : State} (k : ErrorKind) (f : Flags) (d : Bool) (ts : Timestamp) (h : EngineRun s u) :
      EngineRun s (u.report k f d ts)
  | rearm {u : State} (h : EngineRun s u) : EngineRun s u.rearm
  | startFrame {u : State} (h : EngineRun s u) :
      EngineRun s { u with frame := { receiving := true, bytes := [], ticks := 0 } }
  | appendByte {u : State} (byte : Byte) (hrecv : u.frame.receiving = true)
      (hroom : u.frame.bytes.length < u.cfg.frameMax) (h : EngineRun s u) :
      EngineRun s { u with frame := { u.frame with bytes := u.frame.bytes ++ [byte], ticks := 0 } }
  | countTick {u : State} (hrecv : u.frame.receiving = true) (h : EngineRun s u) :
      EngineRun s { u with frame := { u.frame with ticks := saturate u.cfg.ticksWidth (u.frame.ticks + 1) } }
  | clearFrame {u : State} (h : EngineRun s u) : EngineRun s u.clearFrame
  | enqueueFrame {u : State} (flags : Flags) (hroom : u.ring.count < u.cfg.ringCapacity) (h : EngineRun s u) :
      EngineRun s (u.drawNow.2.clearFrame.enqueue (messageOf u.frame flags u.drawNow.1))
  | dropOldest {u : State} (hcount : u.ring.count ≠ 0) (h : EngineRun s u) : EngineRun s u.dropOldest
  | clearRing {u : State} (h : EngineRun s u) : EngineRun s u.clearRing
  | stageResponse {u : State} (data : List Byte) (hdata : data.length ≠ 0) (hroom : data.length ≤ u.cfg.respMax)
      (h : EngineRun s u) :
      EngineRun s { u with resp := { bytes := data, length := data.length, cursor := 0, pending := true } }
  | serveByte {u : State} (hcursor : u.resp.cursor < u.resp.length) (h : EngineRun s u) :
      EngineRun s { u with resp := { u.resp with cursor := u.resp.cursor + 1 } }
  | clearResponse {u : State} (h : EngineRun s u) : EngineRun s u.clearResponse

theorem EngineRun.resetBody {s u : State} (h : EngineRun s u) : EngineRun s u.resetBody :=
  h.rearm.clearFrame.clearRing.clearResponse

theorem EngineRun.forcedReset {s u : State} (h : EngineRun s u) : EngineRun s u.forcedReset := by
  unfold State.forcedReset
  split
  · exact h.resetBody
  · exact h.rearm.clearFrame

theorem EngineRun.takeError {s u : State} (k : ErrorKind) (f : Flags) (d : Bool) (h : EngineRun s u) :
    EngineRun s (u.takeError k f d) :=
  (h.drawNow.report k f d _).forcedReset

/-- The end of a frame: its message is dropped, reported lost or enqueued (rule R142). -/
theorem EngineRun.acceptFrame {s u : State} (flags : Flags) (h : EngineRun s u) :
    EngineRun s (u.drawNow.2.clearFrame.acceptMessage (messageOf u.frame flags u.drawNow.1)) := by
  unfold State.acceptMessage
  split
  · exact h.drawNow.clearFrame
  · split
    · split
      · exact (h.drawNow.clearFrame.report ..).rearm
      · exact h.drawNow.clearFrame.report ..
    · next hroom => exact h.enqueueFrame flags (by simpa using hroom)

/-! ### What an operation can do -/

/-- The first step of Begin has been performed for a transaction of the master (rule R222). -/
def State.opened (s : State) (job : Job) (acts : List Act) : State :=
  s.takeLines.goOn { openTxn job acts with todo := edge .sda .rel ++ edge .scl .rel }

/-- Everything an operation issued in `s` can lead to. -/
inductive ExecutesTo (i : Instr) (s : State) : State → Prop
  /-- the engine's writes, and the end of the operation: with none but a mark or a result for an operation refused, and
  for a master operation that fails its argument check -/
  | retired {u : State} (h : EngineRun s u) : ExecutesTo i s u.retire
  /-- INIT: the registration, and then the engine's writes -/
  | registered {u : State} (c : Bool) (hi : i = .init c) (hctx : s.ctx = .fg)
      (h : EngineRun { s with cb := c, life := .ready } u) : ExecutesTo i s u.retire
  /-- the first step of a master operation -/
  | opened (job : Job) (acts : List Act) (hctx : s.ctx = .fg) : ExecutesTo i s (s.opened job acts)

/-- The next state an outcome answers, where it answers one, has the property. -/
def Answers (P : State → Prop) (o : Host.Outcome State Fault Refusal) : Prop := ∀ t, o = .next t → P t

theorem Answers.next {P : State → Prop} {t : State} (h : P t) : Answers P (.next t) := by
  rintro _ ⟨⟩
  exact h

theorem Answers.refused {P : State → Prop} {r : Refusal} : Answers P (.refused r) := by
  rintro t ⟨⟩

theorem Answers.ite {P : State → Prop} {c : Prop} [Decidable c] {x y : Host.Outcome State Fault Refusal}
    (hx : c → Answers P x) (hy : ¬ c → Answers P y) : Answers P (if c then x else y) := by
  split
  · next hc => exact hx hc
  · next hc => exact hy hc

/-- An operation that is not admitted is marked and retired, so only its body is left to look at. -/
theorem whenAdmitted_answers {i : Instr} {a : Agent} {needsInit : Bool} {s : State}
    {body : State → Host.Outcome State Fault Refusal} (h : s.ctx = a → Answers (ExecutesTo i s) (body s)) :
    Answers (ExecutesTo i s) (whenAdmitted a needsInit s body) := by
  obtain ⟨hctx, -, heq⟩ | ⟨-, -, heq⟩ | ⟨-, -, -, heq⟩ | ⟨-, -, -, heq⟩ := whenAdmitted_cases a needsInit s body <;>
    rw [heq]
  · exact h hctx
  · exact .next (.retired (.refuse _ .refl))
  · exact .next (.retired (.refuse _ .refl))
  · exact .next (.retired (.refuse _ (.countDraw .refl)))

/-- Where no master operation runs, a result ends an operation as it ends one of the engine. -/
theorem State.finish_of_seq_none {s : State} (r : Return) (h : s.master.seq = none) :
    s.finish r = (s.give r).retire := by
  have hs : { s with master := { s.master with seq := none } } = s := by rw [← h]
  rw [State.finish, hs]

theorem finish_answers {i : Instr} {s : State} (r : Return) (h : s.master.seq = none) :
    Answers (ExecutesTo i s) (.next (s.finish r)) := by
  rw [State.finish_of_seq_none r h]
  exact .next (.retired (.give r .refl))

theorem failRead_answers {i : Instr} {s : State} (h : s.master.seq = none) :
    Answers (ExecutesTo i s) (.next (s.finishRead false [])) := by
  rw [show s.finishRead false [] = s.countDraw.finish (.data false s.drawBytes.1) from rfl,
    State.finish_of_seq_none _ (show s.countDraw.master.seq = none from h)]
  exact .next (.retired (.give _ (.countDraw .refl)))

theorem openTxn_answers {i : Instr} {s : State} (job : Job) (acts : List Act) (hctx : s.ctx = .fg) :
    Answers (ExecutesTo i s) (masterStep (openTxn job acts) s) := by
  rw [masterStep_openTxn]
  exact .next (.opened job acts hctx)

/-- Whatever operation is issued, with no master operation running where the foreground issues it: the branches of its
body are runs of the engine, results, and first steps of a transaction. -/
theorem exec_answers (i : Instr) {s : State} (hseq : s.ctx = .fg → s.master.seq = none) :
    Answers (ExecutesTo i s) (exec i s) := by
  cases i <;> apply whenAdmitted_answers <;> intro hctx
  case onStart => exact .next (.retired (.startFrame .refl))
  case onByte byte =>
    refine .ite (fun _ => .next (.retired .refl)) fun hrecv => .ite (fun hroom => ?_) fun _ => ?_
    · exact .next (.retired (.appendByte byte (by simpa using hrecv) hroom .refl))
    · exact .next (.retired (.takeError _ _ _ .refl))
  case onStop flags =>
    refine .ite (fun _ => ?_) fun _ => ?_
    · exact .next (.retired (.report _ _ _ _ (.drawNow .refl)))
    · exact .next (.retired (.acceptFrame flags .refl))
  case onError => exact .next (.retired (.takeError _ _ _ .refl))
  case onTick1ms =>
    refine .ite (fun _ => .next (.retired .refl)) fun hrecv => ?_
    have hcount := EngineRun.countTick (by simpa using hrecv) (.refl (s := s))
    exact .ite (fun _ => .next (.retired (.takeError _ _ _ hcount))) fun _ => .next (.retired hcount)
  case respRead =>
    refine .ite (fun hserve => ?_) fun _ => ?_
    · exact .next (.retired (.give _ (.serveByte hserve.2 .refl)))
    · exact .next (.retired (.give _ .refl))
  case init c => exact .next (.registered c rfl hctx (.resetBody .refl))
  case reset => exact .next (.retired (.resetBody .refl))
  case popMessage =>
    refine .ite (fun _ => .next (.retired (.give _ .refl))) fun hcount => .next (.retired (.give _ ?_))
    split
    · exact .clearResponse (.dropOldest hcount .refl)
    · exact .dropOldest hcount .refl
  case setResponse data =>
    refine .ite (fun _ => .refused) fun _ => .ite (fun _ => ?_) fun hdata => .ite (fun _ => ?_) fun hroom => ?_
    · exact .next (.retired (.give _ (.countDraw (.clearResponse .refl))))
    · exact .next (.retired (.give _ .refl))
    · exact .next (.retired (.give _ (.stageResponse data hdata (by omega) .refl)))
  case getResponse => exact .ite (fun _ => .next (.retired (.give _ .refl))) fun _ => .next (.retired (.give _ .refl))
  case clearResponse => exact .next (.retired (.clearResponse .refl))
  case mRead | devRead => exact .ite (fun _ => failRead_answers (hseq hctx)) fun _ => openTxn_answers _ _ hctx
  case mWrite =>
    exact .ite (fun _ => .refused) fun _ => .ite (fun _ => finish_answers _ (hseq hctx)) fun _ =>
      openTxn_answers _ _ hctx
  case mWriteRead =>
    exact .ite (fun _ => .refused) fun _ => .ite (fun _ => failRead_answers (hseq hctx)) fun _ =>
      openTxn_answers _ _ hctx
  case devWrite mem data =>
    refine .ite (fun _ => .refused) fun _ => .ite (fun _ => finish_answers _ (hseq hctx)) fun _ => ?_
    cases chunkPayloads s.cfg.pageSize mem data with
    | nil => exact finish_answers _ (hseq hctx)
    | cons p rest => exact openTxn_answers _ _ hctx

/-! ### What a step can do -/

/-- Where an agent issues an operation, the step is the operation's meaning (rules R36, R100). -/
theorem step_of_decode_ok {s s' : State} {a : Agent} {i : Instr} {rest : List Byte}
    (hagent : s.chooseAgent = some (a, s')) (hseq : a = .fg → s'.master.seq = none)
    (hdec : decode (s'.stream a) = .ok (i, rest)) : step s = exec i ((s'.enter a).setStream a rest) := by
  have hdec' : decode ((s'.enter a).stream a) = .ok (i, rest) := by cases a <;> exact hdec
  cases a with
  | irq => simp only [step, State.nextAction, hagent, State.fetch, hdec']
  | fg => simp only [step, State.nextAction, hagent, hseq rfl, State.fetch, hdec']

/-- Where the record an agent finds is refused, the step marks and consumes it (rules R36, R110). -/
theorem step_of_decode_error {s s' : State} {a : Agent} {e : DecodeError}
    (hagent : s.chooseAgent = some (a, s')) (hseq : a = .fg → s'.master.seq = none)
    (hdec : decode (s'.stream a) = .error e) :
    step s = .next (((s'.enter a).setStream a
      ((s'.stream a).drop (recordLength (s'.stream a)))).refuseOp .decode) := by
  have hdec' : decode ((s'.enter a).stream a) = .error e := by cases a <;> exact hdec
  cases a with
  | irq => simp only [step, State.nextAction, hagent, State.fetch, hdec']; rfl
  | fg => simp only [step, State.nextAction, hagent, hseq rfl, State.fetch, hdec']; rfl

/-- Settles O55, for each of the two agents. -/
theorem stepRunsTheDecodedOperation : Obligations.StepRunsTheDecodedOperation :=
  fun _ _ _ _ => ⟨fun hagent => step_of_decode_ok hagent nofun, fun hagent hseq => step_of_decode_ok hagent fun _ => hseq⟩

/-- Settles O57: choosing the agent leaves the position of the master operation as it is. -/
theorem stepResumesTheMaster : Obligations.StepResumesTheMaster := by
  intro s s' q hagent hseq
  have hseq' : s'.master.seq = some q := by rw [State.chooseAgent_state hagent]; exact hseq
  simp only [step, State.nextAction, hagent, hseq']
  rfl

/-- `u` is `s` as the agent `a` begins its step there: in its context, the schedule moved on, and the streams consumed
from their front, if at all. -/
structure Begins (s : State) (a : Agent) (u : State) : Prop where
  state : u = { s with ctx := a, env := u.env }
  fgStream : u.env.fgStream <:+ s.env.fgStream
  irqStream : u.env.irqStream <:+ s.env.irqStream

theorem begins_enter {s s' : State} {a : Agent} (hagent : s.chooseAgent = some (a, s')) : Begins s a (s'.enter a) := by
  rw [State.chooseAgent_state hagent]
  exact ⟨rfl, List.suffix_rfl, List.suffix_rfl⟩

theorem begins_setStream {s s' : State} {a : Agent} {rest : List Byte} (hagent : s.chooseAgent = some (a, s'))
    (hrest : rest <:+ s'.stream a) : Begins s a ((s'.enter a).setStream a rest) := by
  rw [State.chooseAgent_state hagent] at hrest ⊢
  cases a with
  | irq => exact ⟨rfl, List.suffix_rfl, hrest⟩
  | fg => exact ⟨rfl, hrest, List.suffix_rfl⟩

theorem plainRecord_suffix {zeros : Bool} {i j : Instr} {rest rest' : List Byte}
    (h : plainRecord zeros i rest = .ok (j, rest')) : rest' <:+ rest := by
  obtain ⟨-, -, rfl⟩ := (plainRecord_ok ..).mp h
  exact List.suffix_rfl

theorem payloadRecord_suffix {zeros : Bool} {len : Byte} {mk : List Byte → Instr} {j : Instr} {rest rest' : List Byte}
    (h : payloadRecord zeros len mk rest = .ok (j, rest')) : rest' <:+ rest := by
  obtain ⟨-, -, -, rfl⟩ := (payloadRecord_ok ..).mp h
  exact List.drop_suffix _ _

/-- A record is taken off the front of its stream (rule R100). -/
theorem decode_suffix {bs rest : List Byte} {i : Instr} (h : decode bs = .ok (i, rest)) : rest <:+ bs := by
  unfold decode at h
  split at h
  · next op b2 b1 b0 tail =>
    refine List.IsSuffix.trans ?_ (List.suffix_append [op, b2, b1, b0] tail)
    unfold decodeRecord at h
    split at h
    case h_10 | h_13 | h_15 | h_16 => exact payloadRecord_suffix h
    case h_18 => cases h
    all_goals exact plainRecord_suffix h
  · cases h

/-- Everything a step from `s` can lead to. -/
inductive StepsTo (s : State) : State → Prop
  /-- no agent has a step -/
  | idle (hidle : s.chooseAgent = none) : StepsTo s s
  /-- a record is refused, or an operation issued that ends with the engine's writes -/
  | retired {a : Agent} {u v : State} (hbegin : Begins s a u) (hseq : a = .fg → s.master.seq = none)
      (h : EngineRun u v) : StepsTo s v.retire
  /-- INIT is issued -/
  | registered {c : Bool} {rest : List Byte} {u v : State} (hbegin : Begins s .fg u) (hseq : s.master.seq = none)
      (hdec : decode s.env.fgStream = .ok (.init c, rest)) (h : EngineRun { u with cb := c, life := .ready } v) :
      StepsTo s v.retire
  /-- a master operation is issued that begins a transaction -/
  | opened {u : State} (job : Job) (acts : List Act) (hbegin : Begins s .fg u) (hseq : s.master.seq = none) :
      StepsTo s (u.opened job acts)
  /-- the running master operation takes its next atomic step -/
  | resumed {q : Seq} {u t : State} (hbegin : Begins s .fg u) (hstream : u.env.fgStream = s.env.fgStream)
      (hseq : s.master.seq = some q) (h : masterStep q u = .next t) : StepsTo s t

theorem ExecutesTo.stepsTo {s u t : State} {a : Agent} {i : Instr} {rest : List Byte} (hbegin : Begins s a u)
    (hseq : a = .fg → s.master.seq = none) (hdec : decode (s.stream a) = .ok (i, rest)) (h : ExecutesTo i u t) :
    StepsTo s t := by
  have hctx : u.ctx = a := by rw [hbegin.state]
  cases h with
  | retired h => exact .retired hbegin hseq h
  | registered c hi hfg h =>
    obtain rfl := hctx.symm.trans hfg
    exact .registered hbegin (hseq rfl) (hi ▸ hdec) h
  | opened job acts hfg =>
    obtain rfl := hctx.symm.trans hfg
    exact .opened job acts hbegin (hseq rfl)

/-- The inversion of a step: who takes it, and what is found there. -/
theorem step_stepsTo {s t : State} (h : step s = .next t) : StepsTo s t := by
  cases hagent : s.chooseAgent with
  | none =>
    simp only [step, State.nextAction, hagent] at h
    cases h
    exact .idle hagent
  | some choice =>
    obtain ⟨a, s'⟩ := choice
    have hstate := State.chooseAgent_state hagent
    have hmaster : s'.master = s.master := by rw [hstate]
    have hstream : s'.stream a = s.stream a := by rw [hstate]; cases a <;> rfl
    by_cases hseq : a = .fg → s.master.seq = none
    · cases hdec : decode (s'.stream a) with
      | ok record =>
        rw [step_of_decode_ok hagent (hmaster ▸ hseq) hdec] at h
        have hbegin := begins_setStream hagent (decode_suffix hdec)
        refine ExecutesTo.stepsTo hbegin hseq (hstream ▸ hdec) (exec_answers _ (fun hfg => ?_) t h)
        rw [hbegin.state] at hfg ⊢
        exact hseq hfg
      | error e =>
        rw [step_of_decode_error hagent (hmaster ▸ hseq) hdec] at h
        cases h
        exact .retired (begins_setStream hagent (List.drop_suffix _ _)) hseq (.refuse _ .refl)
    · obtain ⟨rfl, hrun⟩ := Classical.not_imp.mp hseq
      obtain ⟨q, hq⟩ := Option.ne_none_iff_exists'.mp hrun
      rw [stepResumesTheMaster s s' q hagent hq] at h
      exact .resumed (begins_enter hagent) (by rw [hstate]; rfl) hq h

/-! ### What every write keeps -/

theorem LogGrows.refl (s : State) : LogGrows s s :=
  ⟨List.prefix_rfl, List.prefix_rfl, List.prefix_rfl, List.prefix_rfl, fun _ h => h⟩

theorem LogGrows.trans {s t u : State} (h : LogGrows s t) (h' : LogGrows t u) : LogGrows s u := by
  obtain ⟨herr, hcall, hfault, hret, href⟩ := h
  obtain ⟨herr', hcall', hfault', hret', href'⟩ := h'
  exact ⟨herr.trans herr', hcall.trans hcall', hfault.trans hfault', hret.trans hret', fun r hr => href' r (href r hr)⟩

/-- What no write but the registration of INIT and the end of an operation touches, and the logs, which only grow. -/
structure Keeps (s t : State) : Prop where
  cfg : t.cfg = s.cfg
  life : t.life = s.life
  cb : t.cb = s.cb
  fgPc : t.fgPc = s.fgPc
  irqPc : t.irqPc = s.irqPc
  ctx : t.ctx = s.ctx
  fgStream : t.env.fgStream = s.env.fgStream
  irqStream : t.env.irqStream = s.env.irqStream
  log : LogGrows s t

theorem Keeps.refl (s : State) : Keeps s s := ⟨rfl, rfl, rfl, rfl, rfl, rfl, rfl, rfl, .refl s⟩

theorem Keeps.trans {s t u : State} (h : Keeps s t) (h' : Keeps t u) : Keeps s u :=
  ⟨h'.cfg.trans h.cfg, h'.life.trans h.life, h'.cb.trans h.cb, h'.fgPc.trans h.fgPc, h'.irqPc.trans h.irqPc,
    h'.ctx.trans h.ctx, h'.fgStream.trans h.fgStream, h'.irqStream.trans h.irqStream, h.log.trans h'.log⟩

/-- A write of the buffers of the engine, of the lines, of the master or of the draws keeps all of it. -/
theorem keeps_write (s : State) (frame : Frame) (ring : Ring) (resp : Resp) (lines : Lines) (master : Master)
    (env : Env) (hfg : env.fgStream = s.env.fgStream) (hirq : env.irqStream = s.env.irqStream) :
    Keeps s { s with frame, ring, resp, lines, master, env } :=
  ⟨rfl, rfl, rfl, rfl, rfl, rfl, hfg, hirq, .refl s⟩

/-- So does a write of the log, where the log grows. -/
theorem keeps_log (s : State) (log : Log) (h : LogGrows s { s with log }) : Keeps s { s with log } :=
  ⟨rfl, rfl, rfl, rfl, rfl, rfl, rfl, rfl, h⟩

theorem State.drawNow_keeps (s : State) : Keeps s s.drawNow.2 := by
  rw [State.drawNow_state]
  exact keeps_write s _ _ _ _ _ _ s.drawNow_streams.1 s.drawNow_streams.2

theorem State.countDraw_keeps (s : State) : Keeps s s.countDraw := keeps_write s _ _ _ _ _ _ rfl rfl

theorem State.buffers_keeps (s : State) (frame : Frame) (ring : Ring) (resp : Resp) :
    Keeps s { s with frame, ring, resp } :=
  keeps_write s _ _ _ _ _ _ rfl rfl

theorem faults_prefix_faultsAfterRearm (s : State) : s.log.faults <+: faultsAfterRearm s := by
  unfold faultsAfterRearm
  split
  · exact List.prefix_append _ _
  · exact List.prefix_rfl

theorem State.refuse_keeps (s : State) (r : RefusalMark) : Keeps s (s.refuse r) :=
  keeps_log s _ ⟨List.prefix_rfl, List.prefix_rfl, List.prefix_rfl, List.prefix_rfl, fun first h => by simp [h]⟩

theorem State.give_keeps (s : State) (r : Return) : Keeps s (s.give r) :=
  keeps_log s _ ⟨List.prefix_rfl, List.prefix_rfl, List.prefix_rfl, List.prefix_append _ _, fun _ h => h⟩

theorem State.report_keeps (s : State) (k : ErrorKind) (f : Flags) (d : Bool) (ts : Timestamp) :
    Keeps s (s.report k f d ts) := by
  unfold State.report
  split
  · exact keeps_log s _ ⟨List.prefix_append _ _, List.prefix_rfl, List.prefix_rfl, List.prefix_rfl, fun _ h => h⟩
  · exact .refl s

theorem State.logEvent_keeps (s : State) (e : Event) : Keeps s (s.logEvent e) :=
  keeps_log s _ ⟨List.prefix_rfl, List.prefix_append _ _, List.prefix_rfl, List.prefix_rfl, fun _ h => h⟩

theorem State.rearmCheck_eq (s : State) : s.rearmCheck = { s with log := { s.log with faults := faultsAfterRearm s } } := by
  ext1 <;> simp

theorem State.rearmCheck_keeps (s : State) : Keeps s s.rearmCheck := by
  rw [State.rearmCheck_eq]
  exact keeps_log s _
    ⟨List.prefix_rfl, List.prefix_rfl, faults_prefix_faultsAfterRearm s, List.prefix_rfl, fun _ h => h⟩

theorem State.rearm_keeps (s : State) : Keeps s s.rearm :=
  (((s.rearmCheck_keeps.trans (State.logEvent_keeps _ _)).trans (State.logEvent_keeps _ _)).trans
    (State.logEvent_keeps _ _)).trans (State.logEvent_keeps _ _)

/-- A run of the engine keeps all of it. -/
theorem EngineRun.keeps {s t : State} (h : EngineRun s t) : Keeps s t := by
  induction h with
  | refl => exact .refl s
  | countDraw _ ih => exact ih.trans (State.countDraw_keeps _)
  | drawNow _ ih => exact ih.trans (State.drawNow_keeps _)
  | refuse r _ ih => exact ih.trans (State.refuse_keeps _ r)
  | give r _ ih => exact ih.trans (State.give_keeps _ r)
  | report k f d ts _ ih => exact ih.trans (State.report_keeps _ k f d ts)
  | rearm _ ih => exact ih.trans (State.rearm_keeps _)
  | enqueueFrame flags _ _ ih => exact (ih.trans (State.drawNow_keeps _)).trans (State.buffers_keeps _ _ _ _)
  | startFrame _ ih | appendByte _ _ _ _ ih | countTick _ _ ih | clearFrame _ ih | dropOldest _ _ ih | clearRing _ ih
  | stageResponse _ _ _ _ ih | serveByte _ _ ih | clearResponse _ ih => exact ih.trans (State.buffers_keeps _ _ _ _)

/-- A run of the engine leaves the lines and the master as they are. -/
theorem EngineRun.bus {s t : State} (h : EngineRun s t) : t.lines = s.lines ∧ t.master = s.master := by
  induction h with
  | refl => exact ⟨rfl, rfl⟩
  | _ => simpa

theorem State.takeLines_keeps (s : State) : Keeps s s.takeLines :=
  (keeps_write s _ _ _ _ _ _ rfl rfl).trans (State.logEvent_keeps _ _)

theorem State.driveLine_keeps (s : State) (l : Line) (d : Drive) : Keeps s (s.driveLine l d) :=
  (keeps_write s _ _ _ _ _ _ rfl rfl).trans (State.logEvent_keeps _ _)

theorem State.giveBackLines_keeps (s : State) (cfgScl cfgSda : LineCfg) : Keeps s (s.giveBackLines cfgScl cfgSda) :=
  (keeps_write s _ _ _ _ _ _ rfl rfl).trans (State.logEvent_keeps _ _)

theorem State.sample_keeps (s : State) : Keeps s s.sample.2 := by
  obtain ⟨hfg, hirq⟩ := s.sample_streams
  rw [State.sample_state]
  exact (keeps_write s _ _ _ _ _ _ hfg hirq).trans (State.logEvent_keeps _ _)

theorem State.goOn_keeps (s : State) (q : Seq) : Keeps s (s.goOn q) := keeps_write s _ _ _ _ _ _ rfl rfl

theorem State.opened_keeps (s : State) (job : Job) (acts : List Act) : Keeps s (s.opened job acts) :=
  s.takeLines_keeps.trans (State.goOn_keeps _ _)

/-- A primitive of the master keeps all of it. -/
theorem runPrim_keeps {p : Prim} {q q' : Seq} {s s' : State} (h : runPrim p q s = .ok (q', s')) : Keeps s s' := by
  cases p <;> simp only [runPrim] at h
  case snap => cases h; exact s.takeLines_keeps
  case line => split at h <;> cases h; exact s.driveLine_keeps _ _
  case delay | call => cases h; exact s.logEvent_keeps _
  case sampleAck | sampleBit => split at h <;> cases h; exact s.sample_keeps
  case restore => split at h <;> cases h; exact s.giveBackLines_keeps _ _
  case rearm => cases h; exact s.rearmCheck_keeps.trans (State.logEvent_keeps _ _)

/-- What a step of the master leads to: the operation goes on, or it has ended. -/
def GoesOnOrEnds (s t : State) : Prop :=
  (Keeps s t ∧ t.master.seq.isSome = true) ∨ ∃ v, Keeps s v ∧ v.master.seq = none ∧ t = v.retire

theorem goesOn_goOn {s u : State} (q : Seq) (h : Keeps s u) : GoesOnOrEnds s (u.goOn q) :=
  .inl ⟨h.trans (u.goOn_keeps q), rfl⟩

theorem ends_finish {s u : State} (r : Return) (h : Keeps s u) : GoesOnOrEnds s (u.finish r) :=
  .inr ⟨_, (h.trans (keeps_write u _ _ _ _ _ _ rfl rfl)).trans (State.give_keeps _ r), rfl, rfl⟩

theorem settle_goesOnOrEnds {s u : State} (q : Seq) (h : Keeps s u) : GoesOnOrEnds s (u.settle q) := by
  obtain ⟨q', heq, -⟩ | ⟨r, heq⟩ | ⟨r, heq⟩ := u.settle_cases q <;> rw [heq]
  · exact goesOn_goOn q' h
  · exact ends_finish r h
  · exact ends_finish r (h.trans u.countDraw_keeps)

theorem masterStep_goesOnOrEnds {q : Seq} {s t : State} (h : masterStep q s = .next t) : GoesOnOrEnds s t := by
  cases htodo : q.todo with
  | nil =>
    simp only [masterStep, htodo] at h
    cases h
    exact settle_goesOnOrEnds q (.refl s)
  | cons p rest =>
    obtain ⟨f, -, hfault⟩ | ⟨q', s', hrun, hnext⟩ := masterStep_cons (s := s) htodo
    · rw [hfault] at h
      cases h
    · rw [hnext] at h
      cases h
      split
      · exact settle_goesOnOrEnds q' (runPrim_keeps hrun)
      · exact goesOn_goOn q' (runPrim_keeps hrun)

/-! ### What every step keeps -/

/-- A step begins in the context of its agent, makes the registration of INIT if that is what it issues, keeps what
every write keeps, and may retire an operation. -/
theorem StepsTo.keeps {s t : State} (h : StepsTo s t) : ∃ a u w v, Begins s a u ∧
    (w = u ∨ ∃ c rest, decode s.env.fgStream = .ok (.init c, rest) ∧ w = { u with cb := c, life := .ready }) ∧
    Keeps w v ∧ (t = v ∨ t = v.retire) := by
  cases h with
  | idle => exact ⟨s.ctx, s, s, s, ⟨rfl, List.suffix_rfl, List.suffix_rfl⟩, .inl rfl, .refl s, .inl rfl⟩
  | retired hbegin _ h => exact ⟨_, _, _, _, hbegin, .inl rfl, h.keeps, .inr rfl⟩
  | registered hbegin _ hdec h => exact ⟨_, _, _, _, hbegin, .inr ⟨_, _, hdec, rfl⟩, h.keeps, .inr rfl⟩
  | opened job acts hbegin => exact ⟨_, _, _, _, hbegin, .inl rfl, State.opened_keeps _ job acts, .inl rfl⟩
  | resumed hbegin _ _ h =>
    obtain ⟨hkeep, -⟩ | ⟨v, hkeep, -, heq⟩ := masterStep_goesOnOrEnds h
    · exact ⟨_, _, _, _, hbegin, .inl rfl, hkeep, .inl rfl⟩
    · exact ⟨_, _, _, v, hbegin, .inl rfl, hkeep, .inr heq⟩

/-- Settles O51: the beginning and the end of a step leave the log as it is, and every write between makes it grow. -/
theorem logsOnlyGrow : Obligations.LogsOnlyGrow := by
  intro s t h
  obtain ⟨a, u, w, v, hbegin, hreg, hkeep, hend⟩ := (step_stepsTo h).keeps
  have hbeginLog : LogGrows s w := by
    rw [hbegin.state] at hreg
    obtain rfl | ⟨_, _, _, rfl⟩ := hreg <;> exact .refl s
  have hendLog : LogGrows v t := by
    obtain rfl | rfl := hend
    · exact .refl _
    · rw [LogGrows, State.retire_log]
      exact LogGrows.refl v
  exact (hbeginLog.trans hkeep.log).trans hendLog

/-- Settles O52: the streams are consumed where the step begins, and nowhere else. -/
theorem configurationAndStreamsAreNotWritten : Obligations.ConfigurationAndStreamsAreNotWritten := by
  intro s t h
  obtain ⟨a, u, w, v, hbegin, hreg, hkeep, hend⟩ := (step_stepsTo h).keeps
  have hcfg : u.cfg = s.cfg := by rw [hbegin.state]
  obtain ⟨hwcfg, hwenv⟩ : w.cfg = u.cfg ∧ w.env = u.env := by
    obtain rfl | ⟨_, _, _, rfl⟩ := hreg <;> exact ⟨rfl, rfl⟩
  obtain ⟨htcfg, htenv⟩ : t.cfg = v.cfg ∧ t.env = v.env := by
    obtain rfl | rfl := hend <;> simp
  rw [htcfg, htenv, hkeep.cfg, hkeep.fgStream, hkeep.irqStream, hwcfg, hwenv]
  exact ⟨hcfg, hbegin.fgStream, hbegin.irqStream⟩

/-- Settles O31: only the registration writes `life` and `cb`, and it leaves the engine ready. -/
theorem onlyInitWritesLifeAndCallback : Obligations.OnlyInitWritesLifeAndCallback := by
  intro s t h
  obtain ⟨a, u, w, v, hbegin, hreg, hkeep, hend⟩ := (step_stepsTo h).keeps
  obtain ⟨hlife, hcb⟩ : t.life = w.life ∧ t.cb = w.cb := by
    obtain rfl | rfl := hend <;> simp [hkeep.life, hkeep.cb]
  rw [hlife, hcb]
  obtain rfl | ⟨c, rest, hdec, rfl⟩ := hreg
  · rw [hbegin.state]
    exact ⟨id, fun hchanged => by simp at hchanged⟩
  · exact ⟨fun _ => rfl, fun _ => ⟨c, rest, hdec, rfl⟩⟩

theorem Begins.positions {s u : State} {a : Agent} (h : Begins s a u) :
    u.ctx = a ∧ u.fgPc = s.fgPc ∧ u.irqPc = s.irqPc ∧ u.master = s.master := by
  rw [h.state]
  exact ⟨rfl, rfl, rfl, rfl⟩

/-- The end of an operation advances the position of the agent whose context it is, and no other (rule R36). -/
theorem retire_positions {s v : State} {a : Agent} (hctx : v.ctx = a) (hfg : v.fgPc = s.fgPc)
    (hirq : v.irqPc = s.irqPc) (hseq : a = .fg → v.master.seq = none) :
    (v.retire.irqPc = s.irqPc + 1 ∧ v.retire.fgPc = s.fgPc) ∨
    (v.retire.irqPc = s.irqPc ∧ v.retire.fgPc = s.fgPc + 1 ∧ v.retire.master.seq = none) := by
  cases a with
  | irq => exact .inl (by simp [hctx, hfg, hirq])
  | fg => exact .inr (by simp [hctx, hfg, hirq, hseq rfl])

/-- Settles O53, by what the step leads to: an operation retires, a master operation begins, or one goes on. -/
theorem positionsAdvanceByOne : Obligations.PositionsAdvanceByOne := by
  intro s t h hready
  cases step_stepsTo h with
  | idle hidle => exact absurd hidle hready
  | retired hbegin hseq hrun =>
    obtain ⟨hctx, hfg, hirq, hmaster⟩ := hbegin.positions
    obtain ⟨-, hmaster'⟩ := hrun.bus
    exact (retire_positions (hrun.keeps.ctx.trans hctx) (hrun.keeps.fgPc.trans hfg) (hrun.keeps.irqPc.trans hirq)
      fun ha => by rw [hmaster', hmaster, hseq ha]).imp_right .inl
  | registered hbegin hseq _ hrun =>
    obtain ⟨hctx, hfg, hirq, hmaster⟩ := hbegin.positions
    obtain ⟨-, hmaster'⟩ := hrun.bus
    exact (retire_positions (hrun.keeps.ctx.trans hctx) (hrun.keeps.fgPc.trans hfg) (hrun.keeps.irqPc.trans hirq)
      fun _ => by rw [hmaster', hmaster, hseq]).imp_right .inl
  | opened job acts hbegin hseq =>
    obtain ⟨-, hfg, hirq, -⟩ := hbegin.positions
    exact .inr (.inr ⟨hirq, hfg, rfl, fun hsome => by simp [hseq] at hsome⟩)
  | resumed hbegin hstream _ hstep =>
    obtain ⟨hctx, hfg, hirq, -⟩ := hbegin.positions
    obtain ⟨hkeep, hsome⟩ | ⟨v, hkeep, hnone, rfl⟩ := masterStep_goesOnOrEnds hstep
    · exact .inr (.inr ⟨hkeep.irqPc.trans hirq, hkeep.fgPc.trans hfg, hsome, fun _ => hkeep.fgStream.trans hstream⟩)
    · exact (retire_positions (hkeep.ctx.trans hctx) (hkeep.fgPc.trans hfg) (hkeep.irqPc.trans hirq)
        fun _ => hnone).imp_right .inl

end Sys2Proof.Machine

/-! PROOFS. The invariant of the state (10_state.md): a predicate for each component of the state, what each write of
the engine and of the master does to it, and the step lemma. -/

namespace Sys2Proof.Machine

/-! ### The invariant, component by component -/

/-- The invariant of the frame (rule R33). -/
structure FrameOk (p : Params) (f : Frame) : Prop where
  idle : f.receiving = false → f.bytes = [] ∧ f.ticks = 0
  length : f.bytes.length ≤ p.frameMax
  ticksFit : f.ticks ≤ counterMax p.ticksWidth

/-- The invariant of the ring (rules R34, R35). -/
structure RingOk (p : Params) (r : Ring) : Prop where
  slotCount : r.slots.length = p.ringCapacity
  headRange : r.head < p.ringCapacity
  tailRange : r.tail < p.ringCapacity
  countRange : r.count ≤ p.ringCapacity
  headPlace : r.head = (r.tail + r.count) % p.ringCapacity
  messages : ∀ m ∈ r.slots, m.length = m.bytes.length ∧ m.bytes.length ≤ p.frameMax ∧ m.ts.toNat < 2 ^ p.timestampWidth

/-- The invariant of the response (rule R37). -/
structure RespOk (p : Params) (r : Resp) : Prop where
  bytes : r.bytes.length = r.length
  range : r.length ≤ p.respMax
  cursor : r.cursor ≤ r.length
  pending : r.pending = true ↔ 1 ≤ r.length

/-- The invariant of the lines and of what the master owns of them (rule R40). -/
structure LinesOk (ls : Lines) (m : Master) : Prop where
  snapOwned : m.snap.isSome = m.owns
  cfgOwned : m.owns = true → ls.cfgScl = Config.mcfg ∧ ls.cfgSda = Config.mcfg

/-- The invariant of the position of the master (rules R36, R233, R343). -/
structure SeqOk (m : Master) : Prop where
  atRest : m.seq = none → m.owns = false
  running : ∀ q, m.seq = some q → q.Ok m.owns

/-- The invariant but for the position of the master and the context, which an operation may leave in the middle of it. -/
structure State.Sound (s : State) : Prop where
  cfgWf : s.cfg.wf = true
  frame : FrameOk s.cfg s.frame
  ring : RingOk s.cfg s.ring
  resp : RespOk s.cfg s.resp
  lines : LinesOk s.lines s.master
  faults : s.log.faults.Nodup

theorem State.inv_iff (s : State) : s.Inv ↔ s.Sound ∧ SeqOk s.master ∧ s.ctx = .fg where
  mp h := ⟨⟨h.cfgWf, ⟨h.frameIdle, h.frameLength, h.ticksFit⟩,
    ⟨h.slotCount, h.headRange, h.tailRange, h.countRange, h.headPlace, h.messages⟩,
    ⟨h.respBytes, h.respRange, h.respCursor, h.respPending⟩, ⟨h.snapOwned, h.cfgOwned⟩, h.faultSet⟩,
    ⟨h.atRest, h.seqOk⟩, h.foreground⟩
  mpr := fun ⟨⟨hcfg, hframe, hring, hresp, hlines, hfaults⟩, hseq, hctx⟩ =>
    { cfgWf := hcfg, frameIdle := hframe.idle, frameLength := hframe.length, ticksFit := hframe.ticksFit,
      slotCount := hring.slotCount, headRange := hring.headRange, tailRange := hring.tailRange,
      countRange := hring.countRange, headPlace := hring.headPlace, messages := hring.messages,
      respBytes := hresp.bytes, respRange := hresp.range, respCursor := hresp.cursor, respPending := hresp.pending,
      snapOwned := hlines.snapOwned, cfgOwned := hlines.cfgOwned, atRest := hseq.atRest, seqOk := hseq.running,
      faultSet := hfaults, foreground := hctx }

/-! ### The frame -/

theorem frameOk_empty (p : Params) (receiving : Bool) : FrameOk p { receiving, bytes := [], ticks := 0 } :=
  ⟨fun _ => ⟨rfl, rfl⟩, Nat.zero_le _, Nat.zero_le _⟩

theorem EngineRun.frameOk {s t : State} (h : EngineRun s t) (hf : FrameOk s.cfg s.frame) : FrameOk t.cfg t.frame := by
  induction h with
  | startFrame | clearFrame => exact frameOk_empty _ _
  | enqueueFrame => simpa using frameOk_empty _ false
  | appendByte byte hrecv hroom =>
    exact ⟨fun hidle => absurd hrecv (by simpa using hidle), by simpa using hroom, Nat.zero_le _⟩
  | countTick hrecv _ ih =>
    exact ⟨fun hidle => absurd hrecv (by simpa using hidle), ih.length, Nat.min_le_right _ _⟩
  | _ => simpa

/-! ### The ring -/

theorem RingOk.clear {p : Params} {r : Ring} (h : RingOk p r) : RingOk p { r with head := 0, tail := 0, count := 0 } :=
  have hpos : 0 < p.ringCapacity := Nat.zero_lt_of_lt h.headRange
  { h with headRange := hpos, tailRange := hpos, countRange := Nat.zero_le _, headPlace := (Nat.zero_mod _).symm }

/-- A message of its length and width goes into the slot at the head. -/
theorem RingOk.enqueue {p : Params} {r : Ring} {m : Message} (h : RingOk p r) (hroom : r.count < p.ringCapacity)
    (hm : m.length = m.bytes.length ∧ m.bytes.length ≤ p.frameMax ∧ m.ts.toNat < 2 ^ p.timestampWidth) :
    RingOk p { slots := r.slots.set r.head m, head := (r.head + 1) % p.ringCapacity, tail := r.tail,
               count := r.count + 1 } where
  slotCount := by rw [List.length_set, h.slotCount]
  headRange := Nat.mod_lt _ (Nat.zero_lt_of_lt h.headRange)
  tailRange := h.tailRange
  countRange := hroom
  headPlace := by rw [h.headPlace, Nat.mod_add_mod, Nat.add_assoc]
  messages := fun m' hm' => (List.mem_or_eq_of_mem_set hm').elim (h.messages m') fun heq => heq ▸ hm

theorem RingOk.dropOldest {p : Params} {r : Ring} (h : RingOk p r) (hcount : r.count ≠ 0) :
    RingOk p { r with tail := (r.tail + 1) % p.ringCapacity, count := r.count - 1 } :=
  { h with
    tailRange := Nat.mod_lt _ (Nat.zero_lt_of_lt h.tailRange)
    countRange := (Nat.sub_le _ _).trans h.countRange
    headPlace := by
      have hsum : r.tail + 1 + (r.count - 1) = r.tail + r.count := by omega
      rw [Nat.mod_add_mod, hsum, h.headPlace] }

/-- The message of a frame has its length, and a timestamp of its width (rules R35, R142). -/
theorem EngineRun.ringOk {s t : State} (h : EngineRun s t) (hf : FrameOk s.cfg s.frame) (hr : RingOk s.cfg s.ring) :
    RingOk t.cfg t.ring := by
  induction h with
  | enqueueFrame flags hroom h ih =>
    simpa using ih.enqueue hroom ⟨rfl, (h.frameOk hf).length, State.drawNow_lt _⟩
  | dropOldest hcount _ ih => simpa using ih.dropOldest hcount
  | clearRing _ ih => simpa using ih.clear
  | _ => simpa

/-! ### The response -/

theorem respOk_empty (p : Params) : RespOk p { bytes := [], length := 0, cursor := 0, pending := false } :=
  ⟨rfl, Nat.zero_le _, Nat.le_refl _, by simp⟩

theorem EngineRun.respOk {s t : State} (h : EngineRun s t) (hr : RespOk s.cfg s.resp) : RespOk t.cfg t.resp := by
  induction h with
  | stageResponse data hdata hroom => exact ⟨rfl, hroom, Nat.zero_le _, by simp; omega⟩
  | serveByte hcursor _ ih => exact { ih with cursor := hcursor }
  | clearResponse => exact respOk_empty _
  | _ => simpa

/-! ### The fault bits -/

theorem faultsAfterRearm_nodup {s : State} (h : s.log.faults.Nodup) : (faultsAfterRearm s).Nodup := by
  unfold faultsAfterRearm
  split
  · next hnew =>
    rw [← List.concat_eq_append]
    exact h.concat hnew.2
  · exact h

theorem EngineRun.faults_nodup {s t : State} (h : EngineRun s t) (hs : s.log.faults.Nodup) : t.log.faults.Nodup := by
  induction h with
  | rearm _ ih => simpa using faultsAfterRearm_nodup ih
  | _ => simpa [reported]

theorem EngineRun.sound {s t : State} (h : EngineRun s t) (hs : s.Sound) : t.Sound where
  cfgWf := h.keeps.cfg ▸ hs.cfgWf
  frame := h.frameOk hs.frame
  ring := h.ringOk hs.frame hs.ring
  resp := h.respOk hs.resp
  lines := by rw [h.bus.1, h.bus.2]; exact hs.lines
  faults := h.faults_nodup hs.faults

/-! ### The lines, under the primitives of the master -/

theorem LinesOk.drive {ls : Lines} {m : Master} (h : LinesOk ls m) (l : Line) (d : Drive) : LinesOk (ls.drive l d) m := by
  cases l <;> exact ⟨h.snapOwned, h.cfgOwned⟩

theorem State.takeLines_linesOk (s : State) : LinesOk s.takeLines.lines s.takeLines.master :=
  ⟨rfl, fun _ => ⟨rfl, rfl⟩⟩

theorem State.takeLines_sound {s : State} (h : s.Sound) : s.takeLines.Sound :=
  ⟨h.cfgWf, h.frame, h.ring, h.resp, s.takeLines_linesOk, h.faults⟩

/-- A primitive keeps the invariant but for the position, wherever it is performed. -/
theorem runPrim_sound {p : Prim} {q q' : Seq} {s s' : State} (h : runPrim p q s = .ok (q', s')) (hs : s.Sound) :
    s'.Sound := by
  cases p <;> simp only [runPrim] at h
  case snap => cases h; exact State.takeLines_sound hs
  case line l d =>
    split at h <;> cases h
    exact ⟨hs.cfgWf, hs.frame, hs.ring, hs.resp, hs.lines.drive l d, hs.faults⟩
  case delay | call => cases h; exact ⟨hs.cfgWf, hs.frame, hs.ring, hs.resp, hs.lines, hs.faults⟩
  case sampleAck | sampleBit =>
    split at h <;> cases h
    rw [State.sample_state]
    exact ⟨hs.cfgWf, hs.frame, hs.ring, hs.resp, hs.lines, hs.faults⟩
  case restore =>
    split at h <;> cases h
    exact ⟨hs.cfgWf, hs.frame, hs.ring, hs.resp, ⟨rfl, nofun⟩, hs.faults⟩
  case rearm =>
    cases h
    rw [State.rearmCheck_eq]
    exact ⟨hs.cfgWf, hs.frame, hs.ring, hs.resp, hs.lines, faultsAfterRearm_nodup hs.faults⟩

/-! ### The position of the master -/

theorem openTxn_ok (job : Job) (acts : List Act) : (openTxn job acts).Ok false := ⟨nofun, rfl⟩

theorem closeTxn_ok (q : Seq) : (closeTxn q).Ok true := ⟨nofun, rfl⟩

theorem pause_ok (k : Nat) (payloads : List (List Byte)) : (pause k payloads).Ok false := ⟨nofun, rfl⟩

/-- Every entry of a transaction is performed with the lines owned from its first primitive to its last. -/
theorem nextAct_ok (q : Seq) : (nextAct q).Ok true := by
  unfold nextAct
  split
  · exact closeTxn_ok q
  · next a rest _ => cases a <;> exact ⟨nofun, rfl⟩

/-! ### The way on, and the end of an operation -/

theorem State.retire_inv {s : State} (hs : s.Sound) (hseq : SeqOk s.master) : s.retire.Inv := by
  refine s.retire.inv_iff.mpr ⟨⟨?_, ?_, ?_, ?_, ?_, ?_⟩, ?_, s.retire_ctx⟩
  · simpa using hs.cfgWf
  · simpa using hs.frame
  · simpa using hs.ring
  · simpa using hs.resp
  · simpa using hs.lines
  · simpa using hs.faults
  · simpa using hseq

/-- The operation goes on at a position with every step left in its place. -/
theorem State.goOn_inv {s : State} {q : Seq} {owns : Bool} (hs : s.Sound) (hctx : s.ctx = .fg)
    (howns : s.master.owns = owns) (hq : q.Ok owns) : (s.goOn q).Inv := by
  refine (s.goOn q).inv_iff.mpr ⟨?_, ⟨nofun, ?_⟩, hctx⟩
  · exact ⟨hs.cfgWf, hs.frame, hs.ring, hs.resp, ⟨hs.lines.snapOwned, hs.lines.cfgOwned⟩, hs.faults⟩
  · rintro _ ⟨⟩
    exact howns ▸ hq

/-- A master operation ends with the lines given back. -/
theorem State.finish_inv {s : State} (r : Return) (hs : s.Sound) (howns : s.master.owns = false) : (s.finish r).Inv :=
  State.retire_inv ⟨hs.cfgWf, hs.frame, hs.ring, hs.resp, ⟨hs.lines.snapOwned, hs.lines.cfgOwned⟩, hs.faults⟩
    ⟨fun _ => howns, nofun⟩

theorem State.finishRead_inv {s : State} (ok : Bool) (buf : List Byte) (hs : s.Sound)
    (howns : s.master.owns = false) : (s.finishRead ok buf).Inv := by
  cases ok with
  | true => exact State.finish_inv _ hs howns
  | false => exact State.finish_inv _ (EngineRun.refl.countDraw.sound hs) howns

section
variable {s : State} (hs : s.Sound) (hctx : s.ctx = .fg) (howns : s.master.owns = false)
include hs hctx howns

theorem State.startProbe_inv (k : Nat) (payloads : List (List Byte)) : (s.startProbe k payloads).Inv := by
  unfold State.startProbe
  split
  · exact State.goOn_inv hs hctx howns (openTxn_ok _ _)
  · exact State.finish_inv _ hs howns

theorem State.nextChunk_inv (payloads : List (List Byte)) : (s.nextChunk payloads).Inv := by
  cases payloads with
  | nil => exact State.finish_inv _ hs howns
  | cons p rest => exact State.goOn_inv hs hctx howns (openTxn_ok _ _)

theorem State.afterTxn_inv (q : Seq) : (s.afterTxn q).Inv := by
  unfold State.afterTxn
  split
  · exact State.finish_inv _ hs howns
  · exact State.finishRead_inv _ _ hs howns
  · split
    · exact State.startProbe_inv hs hctx howns _ _
    · exact State.finish_inv _ hs howns
  · split
    · exact State.nextChunk_inv hs hctx howns _
    · split
      · exact State.goOn_inv hs hctx howns (pause_ok _ _)
      · exact State.finish_inv _ hs howns

end

/-- Where a stage ends with the lines as it should leave them, what follows it begins in its place. -/
theorem State.settle_inv {s : State} {q : Seq} (hs : s.Sound) (hctx : s.ctx = .fg)
    (howns : s.master.owns = q.stage.endsOwned) : (s.settle q).Inv := by
  unfold State.settle
  split <;> rename_i hstage <;> rw [hstage] at howns
  · exact State.goOn_inv hs hctx howns (nextAct_ok q)
  · exact State.goOn_inv hs hctx howns (nextAct_ok q)
  · refine State.goOn_inv hs hctx howns ?_
    split
    · exact nextAct_ok q
    · exact closeTxn_ok q
  · exact State.goOn_inv hs hctx howns (nextAct_ok _)
  · exact State.afterTxn_inv hs hctx howns q
  · exact State.startProbe_inv hs hctx howns _ _

/-- The next primitive is performed in its place, and leaves the rest of its stage, or what follows it, in theirs. -/
theorem masterStep_inv {q : Seq} {s t : State} (hs : s.Sound) (hctx : s.ctx = .fg) (hq : q.Ok s.master.owns)
    (h : masterStep q s = .next t) : t.Inv := by
  obtain ⟨hne, howns⟩ := hq
  obtain ⟨p, rest, htodo⟩ := List.exists_cons_of_ne_nil hne
  rw [htodo] at howns
  obtain ⟨q', s', hrun, howns', -⟩ := runPrim_owns (q := { q with todo := rest }) howns hs.lines.snapOwned
  have hsound := runPrim_sound hrun hs
  have hctx' : s'.ctx = .fg := (runPrim_keeps hrun).ctx.trans hctx
  obtain ⟨hq', -, -⟩ := runPrim_frame hrun
  have hstage : q'.stage = q.stage := by rw [hq']
  have hrest : q'.todo = rest := by rw [hq']
  simp only [masterStep, htodo, hrun] at h
  cases rest with
  | nil =>
    cases h
    exact State.settle_inv hsound hctx' (hstage ▸ Option.some.inj howns')
  | cons =>
    cases h
    exact State.goOn_inv hsound hctx' rfl ⟨by simp [hrest], by rw [hrest, hstage, howns']⟩

/-! ### The step -/

theorem Begins.sound {s u : State} {a : Agent} (h : Begins s a u) (hs : s.Sound) : u.Sound := by
  rw [h.state]
  exact ⟨hs.cfgWf, hs.frame, hs.ring, hs.resp, hs.lines, hs.faults⟩

/-- Settles O49: each thing a step can do keeps the components of the invariant it writes, and leaves the master at rest
or at a position in its place. -/
theorem stepKeepsTheInvariant : Obligations.StepKeepsTheInvariant := by
  intro s t hinv h
  obtain ⟨hs, hseqOk, -⟩ := s.inv_iff.mp hinv
  cases step_stepsTo h with
  | idle => exact hinv
  | retired hbegin _ hrun =>
    obtain ⟨-, -, -, hmaster⟩ := hbegin.positions
    obtain ⟨-, hmaster'⟩ := hrun.bus
    exact State.retire_inv (hrun.sound (hbegin.sound hs)) (by rw [hmaster', hmaster]; exact hseqOk)
  | registered hbegin _ _ hrun =>
    obtain ⟨-, -, -, hmaster⟩ := hbegin.positions
    obtain ⟨-, hmaster'⟩ := hrun.bus
    obtain ⟨hcfg, hframe, hring, hresp, hlines, hfaults⟩ := hbegin.sound hs
    exact State.retire_inv (hrun.sound ⟨hcfg, hframe, hring, hresp, hlines, hfaults⟩)
      (by rw [hmaster', hmaster]; exact hseqOk)
  | opened job acts hbegin =>
    obtain ⟨hctx, -, -, -⟩ := hbegin.positions
    exact State.goOn_inv (State.takeLines_sound (hbegin.sound hs)) hctx rfl ⟨nofun, rfl⟩
  | resumed hbegin _ hseq hstep =>
    obtain ⟨hctx, -, -, hmaster⟩ := hbegin.positions
    exact masterStep_inv (hbegin.sound hs) hctx (hmaster ▸ hseqOk.running _ hseq) hstep

end Sys2Proof.Machine

/-! PROOFS. The ring as a queue and the schedule (20_memory.md): what each write of the ring does to the messages it
holds in order, the one write of the ring a step can make, and which agent takes the step. -/

namespace Sys2Proof.Machine

/-! ### The messages of a ring, in order -/

/-- The queued messages of a ring, oldest first (rule R34): what `State.queue` reads of a state. -/
def Ring.queue (p : Params) (r : Ring) : List Message :=
  (List.range r.count).map fun k => r.slots.getD ((r.tail + k) % p.ringCapacity) Message.blank

theorem State.queue_eq (s : State) : s.queue = s.ring.queue s.cfg := rfl

/-- While there is room, the slot at the head is none of those that hold a message (rule R34). -/
theorem RingOk.head_ne {p : Params} {r : Ring} (h : RingOk p r) (hroom : r.count < p.ringCapacity) {k : Nat}
    (hk : k < r.count) : r.head ≠ (r.tail + k) % p.ringCapacity := by
  intro heq
  have hmod : r.count ≡ k [MOD p.ringCapacity] := Nat.ModEq.add_left_cancel' r.tail (h.headPlace.symm.trans heq)
  exact hk.ne' (hmod.eq_of_lt_of_lt hroom (hk.trans hroom))

/-- Enqueue writes at the end of the queue (rule R149). -/
theorem RingOk.queue_enqueue {p : Params} {r : Ring} (h : RingOk p r) (hroom : r.count < p.ringCapacity) (m : Message) :
    Ring.queue p { slots := r.slots.set r.head m, head := (r.head + 1) % p.ringCapacity, tail := r.tail,
                   count := r.count + 1 } = r.queue p ++ [m] := by
  have hlast : (r.slots.set r.head m).getD ((r.tail + r.count) % p.ringCapacity) Message.blank = m := by
    rw [← h.headPlace]
    simp [h.slotCount, h.headRange]
  have hkept : ∀ k ∈ List.range r.count, (r.slots.set r.head m).getD ((r.tail + k) % p.ringCapacity) Message.blank =
      r.slots.getD ((r.tail + k) % p.ringCapacity) Message.blank := by
    intro k hk
    simp [h.head_ne hroom (List.mem_range.mp hk)]
  simp only [Ring.queue, List.range_succ, List.map_append, List.map_cons, List.map_nil, hlast,
    List.map_congr_left hkept]

/-- The message at the tail is the front of the queue, and freeing its slot leaves the others in order (rule R183). -/
theorem RingOk.queue_eq_cons {p : Params} {r : Ring} (h : RingOk p r) (hcount : r.count ≠ 0) :
    r.queue p = r.slots.getD r.tail Message.blank ::
      Ring.queue p { r with tail := (r.tail + 1) % p.ringCapacity, count := r.count - 1 } := by
  obtain ⟨n, hn⟩ := Nat.exists_eq_succ_of_ne_zero hcount
  have hnext : ∀ k ∈ List.range n, r.slots.getD ((r.tail + (k + 1)) % p.ringCapacity) Message.blank =
      r.slots.getD (((r.tail + 1) % p.ringCapacity + k) % p.ringCapacity) Message.blank := by
    intro k _
    rw [Nat.mod_add_mod, Nat.add_assoc, Nat.add_comm 1 k]
  simpa [Ring.queue, hn, List.range_succ_eq_map, Nat.mod_eq_of_lt h.tailRange] using hnext

/-! ### The write of the ring an operation makes -/

/-- `RingMove p r r'`: at most one write of the ring leads from `r` to `r'`, with the test that guards it. -/
inductive RingMove (p : Params) (r : Ring) : Ring → Prop
  | keep : RingMove p r r
  | enqueue (m : Message) (hroom : r.count < p.ringCapacity) :
      RingMove p r { slots := r.slots.set r.head m, head := (r.head + 1) % p.ringCapacity, tail := r.tail,
                     count := r.count + 1 }
  | dropOldest (hcount : r.count ≠ 0) :
      RingMove p r { r with tail := (r.tail + 1) % p.ringCapacity, count := r.count - 1 }
  | clear : RingMove p r { r with head := 0, tail := 0, count := 0 }

/-- No such write overwrites, overtakes or reorders a queued message (rules R34, R80). -/
theorem RingMove.queue {p : Params} {r r' : Ring} (hmove : RingMove p r r') (h : RingOk p r) :
    r'.queue p = r.queue p ∨ (∃ m, r'.queue p = r.queue p ++ [m]) ∨ r'.queue p = (r.queue p).tail ∨ r'.queue p = [] := by
  cases hmove with
  | keep => exact .inl rfl
  | enqueue m hroom => exact .inr (.inl ⟨m, h.queue_enqueue hroom m⟩)
  | dropOldest hcount => exact .inr (.inr (.inl (by rw [h.queue_eq_cons hcount, List.tail_cons])))
  | clear => exact .inr (.inr (.inr rfl))

/-- The ring of `t` comes from that of `s` by at most one write. -/
def MovesRing (s t : State) : Prop := RingMove s.cfg s.ring t.ring

theorem movesRing_keep {s t : State} (h : t.ring = s.ring) : MovesRing s t := by
  rw [MovesRing, h]
  exact .keep

theorem MovesRing.retire {s t : State} (h : MovesRing s t) : MovesRing s t.retire := by
  rw [MovesRing, State.retire_ring]
  exact h

theorem State.refuseOp_ring (s : State) (r : RefusalMark) : (s.refuseOp r).ring = s.ring := by simp [State.refuseOp]

theorem State.finish_ring (s : State) (r : Return) : (s.finish r).ring = s.ring := by simp [State.finish]

/-- A read that fails, like one that succeeds, leaves the ring as it is. -/
theorem State.finishRead_ring (s : State) (ok : Bool) (buf : List Byte) : (s.finishRead ok buf).ring = s.ring := by
  cases ok <;> exact State.finish_ring _ _

/-- A forced reset empties the ring, or keeps it (rule R147). -/
theorem ErrorTaken.movesRing {s t : State} {k : ErrorKind} {f : Flags} {d : Bool} (h : ErrorTaken s k f d t) :
    MovesRing s t := by
  cases hscope : s.cfg.forcedResetScope with
  | full =>
    rw [MovesRing, (h.full hscope).1]
    exact .clear
  | frameOnly => exact movesRing_keep (h.frameOnly hscope).1

theorem State.resetBody_movesRing (s : State) : MovesRing s s.resetBody := by
  rw [State.resetBody_eq]
  exact .clear

/-- ON_STOP enqueues where there is room, and nowhere else (rule R142). -/
theorem State.acceptMessage_movesRing (s : State) (m : Message) : MovesRing s (s.acceptMessage m) := by
  unfold State.acceptMessage
  split
  · exact .keep
  · split
    · split <;> exact movesRing_keep (by simp)
    · next hroom => exact .enqueue m (by simpa using hroom)

/-- An operation that is not admitted leaves the ring as it is, so only its body is left to look at. -/
theorem whenAdmitted_movesRing {a : Agent} {needsInit : Bool} {s : State}
    {body : State → Host.Outcome State Fault Refusal} (h : s.ctx = a → Answers (MovesRing s) (body s)) :
    Answers (MovesRing s) (whenAdmitted a needsInit s body) := by
  obtain ⟨hctx, -, heq⟩ | ⟨-, -, heq⟩ | ⟨-, -, -, heq⟩ | ⟨-, -, -, heq⟩ := whenAdmitted_cases a needsInit s body <;>
    rw [heq]
  · exact h hctx
  · exact .next (movesRing_keep (s.refuseOp_ring _))
  · exact .next (movesRing_keep (s.refuseOp_ring _))
  · exact .next (movesRing_keep (State.refuseOp_ring _ _))

theorem finish_movesRing {s : State} (r : Return) : Answers (MovesRing s) (.next (s.finish r)) :=
  .next (movesRing_keep (s.finish_ring r))

theorem finishRead_movesRing {s : State} (ok : Bool) (buf : List Byte) :
    Answers (MovesRing s) (.next (s.finishRead ok buf)) :=
  .next (movesRing_keep (s.finishRead_ring ok buf))

theorem openTxn_movesRing {s : State} (job : Job) (acts : List Act) :
    Answers (MovesRing s) (masterStep (openTxn job acts) s) := by
  rw [masterStep_openTxn]
  exact .next .keep

/-- Each branch of an operation makes at most one write of the ring. -/
theorem exec_movesRing (i : Instr) (s : State) : Answers (MovesRing s) (exec i s) := by
  cases i <;> apply whenAdmitted_movesRing <;> intro hctx
  case onStart => exact .next (movesRing_keep (State.retire_ring _))
  case onByte =>
    refine .ite (fun _ => ?_) fun _ => .ite (fun _ => ?_) fun _ => ?_
    · exact .next (movesRing_keep s.retire_ring)
    · exact .next (movesRing_keep (State.retire_ring _))
    · exact .next (s.takeError_taken _ _ _ hctx).movesRing
  case onStop flags =>
    refine .ite (fun _ => .next (movesRing_keep (by simp))) fun _ => .next (MovesRing.retire ?_)
    simpa [MovesRing] using s.drawNow.2.clearFrame.acceptMessage_movesRing (messageOf s.frame flags s.drawNow.1)
  case onError => exact .next (s.takeError_taken _ _ _ hctx).movesRing
  case onTick1ms =>
    refine .ite (fun _ => .next (movesRing_keep s.retire_ring)) fun _ => .ite (fun _ => .next ?_) fun _ => .next ?_
    · rw [State.takeError_frame]
      exact (s.takeError_taken _ _ _ hctx).movesRing
    · exact movesRing_keep (State.retire_ring _)
  case respRead | getResponse =>
    exact .ite (fun _ => .next (movesRing_keep (State.retire_ring _))) fun _ =>
      .next (movesRing_keep (State.retire_ring _))
  case init c => exact .next (MovesRing.retire (State.resetBody_movesRing { s with cb := c, life := .ready }))
  case reset => exact .next s.resetBody_movesRing.retire
  case popMessage =>
    refine .ite (fun _ => .next (movesRing_keep (State.retire_ring _))) fun hcount => .next (MovesRing.retire ?_)
    split <;> exact .dropOldest hcount
  case setResponse =>
    exact .ite (fun _ => .refused) fun _ => .ite (fun _ => .next (movesRing_keep (State.retire_ring _))) fun _ =>
      .ite (fun _ => .next (movesRing_keep (State.retire_ring _))) fun _ => .next (movesRing_keep (State.retire_ring _))
  case clearResponse => exact .next (movesRing_keep (State.retire_ring _))
  case mRead | devRead => exact .ite (fun _ => finishRead_movesRing _ _) fun _ => openTxn_movesRing _ _
  case mWrite => exact .ite (fun _ => .refused) fun _ => .ite (fun _ => finish_movesRing _) fun _ => openTxn_movesRing _ _
  case mWriteRead =>
    exact .ite (fun _ => .refused) fun _ => .ite (fun _ => finishRead_movesRing _ _) fun _ => openTxn_movesRing _ _
  case devWrite mem data =>
    refine .ite (fun _ => .refused) fun _ => .ite (fun _ => finish_movesRing _) fun _ => ?_
    cases chunkPayloads s.cfg.pageSize mem data with
    | nil => exact finish_movesRing _
    | cons p rest => exact openTxn_movesRing _ _

/-! ### The write of the ring a step makes -/

theorem runPrim_ring {p : Prim} {q q' : Seq} {s s' : State} (h : runPrim p q s = .ok (q', s')) : s'.ring = s.ring := by
  obtain ⟨-, hstate, -⟩ := runPrim_frame h
  rw [hstate]

theorem State.settle_ring (s : State) (q : Seq) : (s.settle q).ring = s.ring := by
  obtain ⟨q', heq, -⟩ | ⟨r, heq⟩ | ⟨r, heq⟩ := s.settle_cases q <;> rw [heq]
  · rfl
  · exact s.finish_ring r
  · exact s.countDraw.finish_ring r

/-- No atomic step of the master touches the ring. -/
theorem masterStep_ring {q : Seq} {s t : State} (h : masterStep q s = .next t) : t.ring = s.ring := by
  cases htodo : q.todo with
  | nil =>
    simp only [masterStep, htodo] at h
    cases h
    exact s.settle_ring q
  | cons p rest =>
    obtain ⟨f, -, hfault⟩ | ⟨q', s', hrun, hnext⟩ := masterStep_cons (s := s) htodo
    · rw [hfault] at h
      cases h
    · rw [hnext] at h
      cases h
      rw [← runPrim_ring hrun]
      split
      · exact s'.settle_ring q'
      · rfl

/-- What the agent of a step does, once it has begun it: it issues an operation, it marks a refused record, or it goes
on with the running master operation. -/
theorem step_cases {s t : State} (h : step s = .next t) :
    (s.chooseAgent = none ∧ t = s) ∨ ∃ a u, Begins s a u ∧
      ((∃ i, exec i u = .next t) ∨ t = u.refuseOp .decode ∨ ∃ q, masterStep q u = .next t) := by
  cases hagent : s.chooseAgent with
  | none =>
    simp only [step, State.nextAction, hagent] at h
    cases h
    exact .inl ⟨rfl, rfl⟩
  | some choice =>
    obtain ⟨a, s'⟩ := choice
    have hmaster : s'.master = s.master := by rw [State.chooseAgent_state hagent]
    refine .inr ?_
    by_cases hseq : a = .fg → s'.master.seq = none
    · cases hdec : decode (s'.stream a) with
      | ok record =>
        rw [step_of_decode_ok hagent hseq hdec] at h
        exact ⟨a, _, begins_setStream hagent (decode_suffix hdec), .inl ⟨_, h⟩⟩
      | error e =>
        rw [step_of_decode_error hagent hseq hdec] at h
        cases h
        exact ⟨a, _, begins_setStream hagent (List.drop_suffix _ _), .inr (.inl rfl)⟩
    · obtain ⟨rfl, hrun⟩ := Classical.not_imp.mp hseq
      obtain ⟨q, hq⟩ := Option.ne_none_iff_exists'.mp hrun
      rw [stepResumesTheMaster s s' q hagent (hmaster ▸ hq)] at h
      exact ⟨.fg, _, begins_enter hagent, .inr (.inr ⟨q, h⟩)⟩

/-- One agent takes the step, and with it makes at most one write of the ring (rules R78, R80). -/
theorem step_movesRing {s t : State} (h : step s = .next t) : MovesRing s t := by
  obtain ⟨-, rfl⟩ | ⟨a, u, hbegin, haction⟩ := step_cases h
  · exact .keep
  · have hmove : MovesRing u t := by
      obtain ⟨i, hexec⟩ | rfl | ⟨q, hmaster⟩ := haction
      · exact exec_movesRing i u t hexec
      · exact movesRing_keep (u.refuseOp_ring _)
      · exact movesRing_keep (masterStep_ring hmaster)
    rw [hbegin.state] at hmove
    exact hmove

/-- Settles O33: a step makes at most one write of the ring, and leaves the configuration as it is. -/
theorem queueKeepsItsOrder : Obligations.QueueKeepsItsOrder := by
  intro s t hinv h
  obtain ⟨hsound, -, -⟩ := s.inv_iff.mp hinv
  obtain ⟨hcfg, -, -⟩ := configurationAndStreamsAreNotWritten s t h
  rw [t.queue_eq, hcfg]
  exact (step_movesRing h).queue hsound.ring

/-! ### First in, first out -/

theorem State.retire_queue (s : State) : s.retire.queue = s.queue := by simp [State.queue]

/-- The timestamp drawn does not depend on the context. -/
theorem State.drawNow_enter (s : State) (a : Agent) : (s.enter a).drawNow.1 = s.drawNow.1 := by
  unfold State.drawNow
  rw [State.enter_env]
  split <;> rfl

/-- ON_STOP enqueues a message that is to be kept, where there is room for it (rule R142). -/
theorem State.acceptMessage_of_room {s : State} {m : Message} (hkept : m.length ≠ 0 ∨ s.cfg.enqueueEmpty = true)
    (hroom : s.ring.count < s.cfg.ringCapacity) : s.acceptMessage m = s.enqueue m := by
  have hwanted : ¬ (m.length = 0 ∧ s.cfg.enqueueEmpty = false) := by
    rintro ⟨hempty, hdropped⟩
    simp [hempty, hdropped] at hkept
  rw [State.acceptMessage, if_neg hwanted, if_neg hroom.not_ge]

/-- The meaning of ON_STOP where it finds a frame to enqueue, and room for it (rule R142). -/
theorem exec_onStop_of_room {s : State} (flags : Flags) (hctx : s.ctx = .irq) (hlife : s.life = .ready)
    (hrecv : s.frame.receiving = true) (hkept : s.frame.bytes ≠ [] ∨ s.cfg.enqueueEmpty = true)
    (hroom : s.ring.count < s.cfg.ringCapacity) :
    exec (.onStop flags) s =
      .next (s.drawNow.2.clearFrame.enqueue (messageOf s.frame flags s.drawNow.1)).retire := by
  have haccept : s.drawNow.2.clearFrame.acceptMessage (messageOf s.frame flags s.drawNow.1) =
      s.drawNow.2.clearFrame.enqueue (messageOf s.frame flags s.drawNow.1) :=
    State.acceptMessage_of_room (by simpa [messageOf] using hkept) (by simpa using hroom)
  rw [show exec (.onStop flags) s = execOnStop flags s from rfl, execOnStop, whenAdmitted_of _ _ _ _ hctx fun _ => hlife]
  simp [hrecv, haccept]

/-- POP_MESSAGE frees the slot at the tail and answers the message it holds, where there is one (rule R183). -/
theorem exec_popMessage_of_nonempty {s : State} (hctx : s.ctx = .fg) (hlife : s.life = .ready)
    (hcount : s.ring.count ≠ 0) :
    exec .popMessage s = .next ((if s.cfg.popClearsResponse then s.dropOldest.clearResponse else s.dropOldest).give
      (.message (some s.oldest))).retire := by
  rw [show exec .popMessage s = execPopMessage s from rfl, execPopMessage, whenAdmitted_of _ _ _ _ hctx fun _ => hlife,
    if_neg hcount]

/-- Settles O32: ON_STOP writes at the end of the queue, and POP_MESSAGE frees the slot of its front. -/
theorem ringIsFirstInFirstOut : Obligations.RingIsFirstInFirstOut := by
  refine ⟨fun flags s hinv hlife hrecv hkept hroom => ?_, fun s m rest hinv hlife hqueue => ?_⟩ <;>
    obtain ⟨hsound, -, hctx⟩ := s.inv_iff.mp hinv
  · refine ⟨_, exec_onStop_of_room (s := s.enter .irq) flags rfl hlife hrecv hkept hroom, ?_⟩
    rw [State.retire_queue, State.drawNow_enter, State.queue_eq]
    simpa [messageOf, State.queue_eq] using hsound.ring.queue_enqueue hroom (messageOf s.frame flags s.drawNow.1)
  · have hcount : s.ring.count ≠ 0 := by
      intro hempty
      simp [State.queue, hempty] at hqueue
    rw [State.queue_eq, hsound.ring.queue_eq_cons hcount] at hqueue
    obtain ⟨hfront, hrest⟩ := List.cons.inj hqueue
    refine ⟨_, exec_popMessage_of_nonempty hctx hlife hcount, ?_, ?_⟩
    · rw [State.retire_queue, ← hrest]
      split <;> rfl
    · rw [← hfront]
      split <;> simp [State.oldest]

/-! ### The schedule -/

/-- Where both agents have a step and the schedule names none, one of the two takes it, with a free value drawn. -/
theorem State.chooseAgent_free {s : State} (hfg : s.fgReady = true) (hirq : s.irqReady = true)
    (hturns : s.env.turns = []) :
    s.chooseAgent = some (if Config.freeIrqFirst s.env.drawn then .irq else .fg, s.countDraw) := by
  simp only [State.chooseAgent, hfg, hirq, hturns]

/-- Where both have a step, the agent the schedule names takes it. -/
theorem State.chooseAgent_named {s : State} {a : Agent} {rest : List Agent} (hfg : s.fgReady = true)
    (hirq : s.irqReady = true) (hturns : s.env.turns = a :: rest) : s.chooseAgent = some (a, s.passTurn) := by
  simp only [State.chooseAgent, hfg, hirq, hturns]

/-- Settles O54, by which of the agents have a step. -/
theorem scheduleNamesTheAgent : Obligations.ScheduleNamesTheAgent := by
  intro s
  refine ⟨fun a rest hfg hirq hturns => ?_, fun hfg hirq hturns => ⟨_, State.chooseAgent_free hfg hirq hturns⟩,
    fun hfg hirq => ?_, fun hfg hirq => ?_, fun hfg hirq => ?_⟩
  · rw [State.chooseAgent_named hfg hirq hturns, State.passTurn, hturns]
    rfl
  · simp only [State.chooseAgent, hfg, hirq, State.passTurn]
  · simp only [State.chooseAgent, hfg, hirq, State.passTurn]
  · simp only [step, State.nextAction, State.chooseAgent, hfg, hirq]

end Sys2Proof.Machine

/-! PROOFS. The encoding (30_encoding.md): the decoder and the encoder are inverse to each other, each reason of rule
R110 is given exactly where it says, and a record is as long as its header says. -/

namespace Sys2Proof

/-! ### The formats without and with a payload, and why they refuse a record -/

/-- The one reason a record without a payload is refused for. -/
theorem plainRecord_error (zeros : Bool) (i : Instr) (rest : List Byte) (e : DecodeError) :
    plainRecord zeros i rest = .error e ↔ zeros = false ∧ e = .nonzeroField := by
  cases zeros <;> simp [plainRecord, eq_comm]

/-- The two reasons a record with a payload is refused for, the zero fields first. -/
theorem payloadRecord_error (zeros : Bool) (len : Byte) (mk : List Byte → Instr) (rest : List Byte)
    (e : DecodeError) : payloadRecord zeros len mk rest = .error e ↔
      (zeros = false ∧ e = .nonzeroField) ∨ (zeros = true ∧ rest.length < len.toNat ∧ e = .truncated) := by
  cases zeros
  · simp [payloadRecord, eq_comm]
  · by_cases hshort : rest.length < len.toNat <;> simp [payloadRecord, hshort, eq_comm]

/-- A payload at the head of the stream is taken off it. -/
theorem payloadRecord_append {data : List Byte} {mk : List Byte → Instr} {i : Instr}
    (hfits : payloadFits data = true) (hmk : mk data = i) (rest : List Byte) :
    payloadRecord true (lengthByte data) mk (data ++ rest) = .ok (i, rest) := by
  have hlen : (lengthByte data).toNat = data.length := lengthByte_toNat data ((payloadFits_iff data).mp hfits)
  exact (payloadRecord_ok ..).mpr ⟨rfl, by simp [hlen], by simp [hlen, hmk], by simp [hlen]⟩

/-- A payload cut short is refused. -/
theorem payloadRecord_take {data : List Byte} {mk : List Byte → Instr} {n : Nat} (hfits : payloadFits data = true)
    (hn : n < data.length) : payloadRecord true (lengthByte data) mk (data.take n) = .error .truncated := by
  have hlen : (lengthByte data).toNat = data.length := lengthByte_toNat data ((payloadFits_iff data).mp hfits)
  exact (payloadRecord_error ..).mpr (.inr ⟨rfl, by rw [List.length_take]; omega, rfl⟩)

/-- The zero field of format I, `H[7:1]` (rule R105). -/
theorem shiftRight_one_eq_zero_iff (b : Byte) : b >>> 1 = 0 ↔ b.toNat < 2 := by
  rw [← BitVec.toNat_inj, BitVec.toNat_ushiftRight, Nat.shiftRight_eq_div_pow]
  exact Nat.div_eq_zero_iff_lt (by decide)

/-- With its zero field zero, the low byte of an INIT header is its `c` bit (rule R105). -/
theorem initByte_eq {b : Byte} (h : b >>> 1 = 0) : b = if b == 1 then 1 else 0 := by
  have hlt := (shiftRight_one_eq_zero_iff b).mp h
  by_cases hone : b = 1
  · simp [hone]
  · have hzero : b = 0 := by bv_omega
    simp [hzero]

/-! ### Decoding a record gives the operation back, and only that record does -/

/-- Settles O1: an operation's header selects its own format, whose fields give the operands back. -/
theorem decodeOfEncode : Obligations.DecodeOfEncode := by
  intro i rest hwf
  cases i with
  | onStart flags => exact (plainRecord_ok ..).mpr ⟨rfl, by rw [word16_bytes], rfl⟩
  | onStop flags => exact (plainRecord_ok ..).mpr ⟨rfl, by rw [word16_bytes], rfl⟩
  | onError flags => exact (plainRecord_ok ..).mpr ⟨rfl, by rw [word16_bytes], rfl⟩
  | devRead mem n => exact (plainRecord_ok ..).mpr ⟨rfl, by rw [word16_bytes], rfl⟩
  | init c => cases c <;> rfl
  | onByte | onTick1ms | respRead | reset | popMessage | getResponse | clearResponse | mRead => rfl
  | setResponse | mWrite => exact payloadRecord_append hwf rfl rest
  | mWriteRead => exact payloadRecord_append (mk := fun tx => .mWriteRead _ tx _) hwf rfl rest
  | devWrite mem data => exact payloadRecord_append hwf (congrArg (Instr.devWrite · data) (word16_bytes mem)) rest

/-- A header whose record has no payload, where its opcode and zero fields are those of the operation. -/
theorem plainRecord_encode {zeros : Bool} {op b2 b1 b0 : Byte} {i j : Instr} {rest rest' : List Byte}
    (hrec : zeros = true → encode i = [op, b2, b1, b0]) (h : plainRecord zeros i rest = .ok (j, rest')) :
    op :: b2 :: b1 :: b0 :: rest = encode j ++ rest' := by
  obtain ⟨hzeros, rfl, rfl⟩ := (plainRecord_ok ..).mp h
  rw [hrec hzeros]
  rfl

/-- A header whose record has a payload, where its opcode, zero fields and length field are those of the operation. -/
theorem payloadRecord_encode {zeros : Bool} {len op b2 b1 b0 : Byte} {mk : List Byte → Instr} {j : Instr}
    {rest rest' : List Byte}
    (hrec : zeros = true → ∀ data, lengthByte data = len → encode (mk data) = [op, b2, b1, b0] ++ data)
    (h : payloadRecord zeros len mk rest = .ok (j, rest')) : op :: b2 :: b1 :: b0 :: rest = encode j ++ rest' := by
  obtain ⟨hzeros, hlen, rfl, rfl⟩ := (payloadRecord_ok ..).mp h
  rw [hrec hzeros _ (lengthByte_take len rest hlen), List.append_assoc, List.take_append_drop]
  rfl

/-- The bytes a record was decoded from are the record of the operation, opcode by opcode: INIT (rule R105), the four
operations with a payload (rules R106 to R109), and the twelve others. -/
theorem decodeRecord_encode {op b2 b1 b0 : Byte} {rest rest' : List Byte} {i : Instr}
    (h : decodeRecord op b2 b1 b0 rest = .ok (i, rest')) : op :: b2 :: b1 :: b0 :: rest = encode i ++ rest' := by
  unfold decodeRecord at h
  split at h
  case h_18 => cases h
  case h_7 hop =>
    obtain rfl : op = 0x20#8 := BitVec.eq_of_toNat_eq hop
    refine plainRecord_encode (fun hz => ?_) h
    simp only [Bool.and_eq_true, beq_iff_eq] at hz
    obtain ⟨⟨rfl, rfl⟩, hb0⟩ := hz
    exact congrArg (fun b => [0x20#8, 0, 0, b]) (initByte_eq hb0).symm
  case h_10 hop | h_13 hop | h_15 hop | h_16 hop =>
    refine payloadRecord_encode (fun hz data hdata => ?_) h
    obtain ⟨-, rfl⟩ := BitVec.toNat_eq_nat.mp hop
    simp_all [encode]
  all_goals
    rename_i hop
    refine plainRecord_encode (fun hz => ?_) h
    obtain ⟨-, rfl⟩ := BitVec.toNat_eq_nat.mp hop
    simp_all [encode]

/-- Settles O2: fewer than four bytes decode to nothing, and a header's record is the operation's. -/
theorem encodeOfDecode : Obligations.EncodeOfDecode := by
  intro bs rest i h
  refine ⟨?_, decode_wf h⟩
  unfold decode at h
  split at h
  · exact decodeRecord_encode h
  · cases h

/-! ### Each reason of rule R110, exactly where it is given -/

/-- Settles O4: a known opcode gives the other two reasons only. -/
theorem reservedOpcodesAreRefused : Obligations.ReservedOpcodesAreRefused := by
  intro op b2 b1 b0 rest
  rw [decode, decodeRecord]
  split
  case h_18 =>
    simp only [imp_false, true_iff] at *
    omega
  all_goals
    simp only [plainRecord_error, payloadRecord_error, reduceCtorEq, and_false, or_false, false_iff]
    omega

/-- Settles O5: a known opcode names its zero fields, and a reserved one has none. -/
theorem nonzeroFieldsAreRefused : Obligations.NonzeroFieldsAreRefused := by
  intro op b2 b1 b0 rest
  rw [decode, decodeRecord]
  split
  -- no known opcode is left
  case h_18 => simp_all
  all_goals
    rename_i hop
    simp only [hop, plainRecord_error, payloadRecord_error, Bool.and_eq_false_iff, beq_eq_false_iff_ne, ne_eq,
      shiftRight_one_eq_zero_iff, not_lt, or_assoc]
    simp

/-- A stream of fewer than four bytes holds no header. -/
theorem decode_of_length_lt {bs : List Byte} (h : bs.length < 4) : decode bs = .error .truncated := by
  unfold decode
  split
  · simp only [List.length_cons] at h
    omega
  · rfl

/-! ### The length of a record -/

/-- The record of every operation is four bytes and its payload. -/
theorem encode_length : ∀ i : Instr, (encode i).length = 4 + i.payload.length
  | .onStart flags => Laws.EncodeLength.onStart flags
  | .onByte byte => Laws.EncodeLength.onByte byte
  | .onStop flags => Laws.EncodeLength.onStop flags
  | .onError flags => Laws.EncodeLength.onError flags
  | .onTick1ms => Laws.EncodeLength.onTick1ms
  | .respRead => Laws.EncodeLength.respRead
  | .init c => Laws.EncodeLength.init c
  | .reset => Laws.EncodeLength.reset
  | .popMessage => Laws.EncodeLength.popMessage
  | .setResponse data => Laws.EncodeLength.setResponse data
  | .getResponse => Laws.EncodeLength.getResponse
  | .clearResponse => Laws.EncodeLength.clearResponse
  | .mWrite a data => Laws.EncodeLength.mWrite a data
  | .mRead a n => Laws.EncodeLength.mRead a n
  | .mWriteRead a tx n => Laws.EncodeLength.mWriteRead a tx n
  | .devWrite mem data => Laws.EncodeLength.devWrite mem data
  | .devRead mem n => Laws.EncodeLength.devRead mem n

/-- The header of a record gives the length of its payload (rule R112). -/
theorem recordLength_encode {i : Instr} (hwf : i.wf = true) (rest : List Byte) :
    recordLength (encode i ++ rest) = 4 + i.payload.length := by
  have hlen : (lengthByte i.payload).toNat = i.payload.length := lengthByte_toNat _ ((payloadFits_iff _).mp hwf)
  cases i
  case setResponse | mWrite | mWriteRead | devWrite => exact congrArg (4 + ·) hlen
  all_goals rfl

/-- Settles O6: cut within its header a record has no header, and cut after it its payload is short. -/
theorem truncatedRecordsAreRefused : Obligations.TruncatedRecordsAreRefused := by
  intro i k hwf _ hk
  rw [encode_length] at hk
  obtain hheader | hheader := Nat.lt_or_ge k 4
  · exact decode_of_length_lt (by rw [List.length_take]; omega)
  · obtain ⟨n, rfl⟩ := Nat.exists_eq_add_of_le' hheader
    have hn : n < i.payload.length := by omega
    cases i
    case setResponse | mWrite | devWrite => exact payloadRecord_take hwf hn
    case mWriteRead => exact payloadRecord_take (mk := fun tx => .mWriteRead _ tx _) hwf hn
    all_goals exact absurd hn (Nat.not_lt_zero n)

/-- Settles O7: the stream is the record of the operation and the rest. -/
theorem recordLengthIsInTheHeader : Obligations.RecordLengthIsInTheHeader := by
  intro bs rest i h
  obtain ⟨rfl, hwf⟩ := encodeOfDecode bs rest i h
  rw [recordLength_encode hwf, ← encode_length, List.length_append, encode_length]
  exact ⟨by omega, rfl, by omega, by rw [← encode_length, List.drop_left]⟩

/-! ### The formats, field by field, and the pseudo-instructions -/

/-- A payload the stream holds is taken off it, as many bytes as the length field says. -/
theorem payloadRecord_of_le (len : Byte) (mk : List Byte → Instr) {rest : List Byte} (h : len.toNat ≤ rest.length) :
    payloadRecord true len mk rest = .ok (mk (rest.take len.toNat), rest.drop len.toNat) :=
  (payloadRecord_ok ..).mpr ⟨rfl, h, rfl, rfl⟩

/-- Settles O3: an opcode and its zero fields select the operation, and a payload is taken where the stream holds it. -/
theorem formatsGiveTheirFields : Obligations.FormatsGiveTheirFields :=
  fun b2 b1 b0 _ =>
    ⟨rfl, rfl, rfl, rfl, rfl, rfl, rfl, rfl, rfl, rfl, rfl, rfl,
      payloadRecord_of_le b1 .setResponse, payloadRecord_of_le b1 (.mWrite b2), rfl,
      payloadRecord_of_le b1 (fun tx => .mWriteRead b2 tx b0), payloadRecord_of_le b2 (.devWrite (word16 b1 b0)), rfl⟩

/-- A list of operations assembles to the records of its parts, in order. -/
@[simp] theorem assemble_append (ops ops' : List Instr) : assemble (ops ++ ops') = assemble ops ++ assemble ops' :=
  List.flatMap_append

@[simp] theorem assemble_cons (i : Instr) (ops : List Instr) : assemble (i :: ops) = encode i ++ assemble ops :=
  List.flatMap_cons

/-- Settles O58: the bytes of a frame become ON_BYTE records one by one, and `n` ticks are `n` equal records. -/
theorem pseudoInstructionsExpand : Obligations.PseudoInstructionsExpand := by
  intro data flags n
  have hbytes : assemble (data.map .onByte) = data.flatMap fun b => [0x11, 0, 0, b] := List.flatMap_map ..
  refine ⟨?_, ?_⟩
  · rw [pseudoFrame, assemble_append, assemble_cons, hbytes]
    rfl
  · rw [pseudoTicks, assemble, List.flatMap_replicate]
    rfl

end Sys2Proof

/-! PROOFS. The words of the observation logs (rule R119), and what a step does with an operation or a record it refuses
(decision D35, rule R110). -/

namespace Sys2Proof.Machine

/-! ### Log words -/

/-- The call-log entry a word stands for: what a reader of the log makes of it. A word of no entry reads as a Delay. -/
def eventOfWord (w : Word) : Event :=
  match w.toNat with
  | 0x40000000 => .call .busStop
  | 0x40000001 => .call .busCreate
  | 0x40000002 => .call .busStart
  | 0x40000003 => .call .busRearmSlaveReceive
  | 0x41000000 => .line .scl .low
  | 0x41000001 => .line .scl .rel
  | 0x41000100 => .line .sda .low
  | 0x41000101 => .line .sda .rel
  | 0x43000000 => .sample false
  | 0x43000001 => .sample true
  | 0x44000000 => .snap
  | 0x45000000 => .restore
  | _ => .delay

/-- The reader gives every entry back. -/
theorem eventOfWord_word : Function.LeftInverse eventOfWord Event.word
  | .call .busStop | .call .busCreate | .call .busStart | .call .busRearmSlaveReceive => rfl
  | .line .scl .low | .line .scl .rel | .line .sda .low | .line .sda .rel => rfl
  | .delay | .sample false | .sample true | .snap | .restore => rfl

/-- The first word of an error-log entry. -/
def ErrorContext.head (e : ErrorContext) : Word :=
  logWord 0x50 (kindCode e.kind * 2 ^ 20 + (if e.dropped then 1 else 0) * 2 ^ 16 + e.flags.toNat)

theorem ErrorContext.words_eq (e : ErrorContext) : e.words = [e.head, e.ts] := rfl

/-- The error kind a code stands for; the codes rule R300 leaves unnamed are read as Timeout. -/
def kindOfCode (c : BitVec 4) : ErrorKind :=
  match c.toNat with
  | 1 => .busError
  | 2 => .arbitrationLost
  | 3 => .overrun
  | 4 => .nack
  | 5 => .lineStuck
  | 6 => .frame
  | _ => .timeout

theorem kindOfCode_kindCode (k : ErrorKind) : kindOfCode (BitVec.ofNat 4 (kindCode k)) = k := by
  cases k <;> rfl

theorem kindCode_lt (k : ErrorKind) : kindCode k < 8 := by
  cases k <;> decide

/-- A field of a word is a digit of its number. -/
theorem extractLsb'_eq_iff (w : Word) (start len : Nat) (v : BitVec len) :
    w.extractLsb' start len = v ↔ w.toNat / 2 ^ start % 2 ^ len = v.toNat := by
  rw [← BitVec.toNat_inj, BitVec.extractLsb'_toNat, Nat.shiftRight_eq_div_pow]

section
variable (e : ErrorContext)

/-- Each field is below its width. -/
theorem ErrorContext.fields_lt : kindCode e.kind < 8 ∧ e.dropped.toNat < 2 ∧ e.flags.toNat < 65536 :=
  ⟨kindCode_lt e.kind, e.dropped.toNat_lt, e.flags.isLt⟩

/-- So the fields lie side by side in the word. -/
theorem ErrorContext.head_toNat :
    e.head.toNat = 0x50 * 2 ^ 24 + kindCode e.kind * 2 ^ 20 + e.dropped.toNat * 2 ^ 16 + e.flags.toNat := by
  have hlt := e.fields_lt
  cases hdropped : e.dropped <;> simp [ErrorContext.head, logWord, hdropped] <;> omega

theorem ErrorContext.head_opcode : e.head.extractLsb' 24 8 = 0x50#8 := by
  have hlt := e.fields_lt
  rw [extractLsb'_eq_iff, e.head_toNat, BitVec.toNat_ofNat]
  omega

theorem ErrorContext.head_kind : e.head.extractLsb' 20 4 = BitVec.ofNat 4 (kindCode e.kind) := by
  have hlt := e.fields_lt
  rw [extractLsb'_eq_iff, e.head_toNat, BitVec.toNat_ofNat]
  omega

theorem ErrorContext.head_zero : e.head.extractLsb' 17 3 = 0#3 := by
  have hlt := e.fields_lt
  rw [extractLsb'_eq_iff, e.head_toNat, BitVec.toNat_ofNat]
  omega

theorem ErrorContext.head_dropped : e.head.getLsbD 16 = e.dropped := by
  have hlt := e.fields_lt
  rw [BitVec.getLsbD, Nat.testBit_eq_decide_div_mod_eq, e.head_toNat]
  cases e.dropped <;> simp <;> omega

theorem ErrorContext.head_flags : e.head.extractLsb' 0 16 = e.flags := by
  have hlt := e.fields_lt
  rw [extractLsb'_eq_iff, e.head_toNat]
  omega

end

/-- The error-log entry two words stand for. -/
def errorOfWords (head ts : Word) : ErrorContext where
  kind := kindOfCode (head.extractLsb' 20 4)
  flags := head.extractLsb' 0 16
  dropped := head.getLsbD 16
  ts := ts

/-- The reader of the error log gives every entry back. -/
theorem errorOfWords_head (e : ErrorContext) : errorOfWords e.head e.ts = e := by
  rw [errorOfWords, e.head_kind, kindOfCode_kindCode, e.head_flags, e.head_dropped]

/-- Settles O10: what a reader makes of the words is the entry they were written for. -/
theorem logWordsAreInjective : Obligations.LogWordsAreInjective := by
  refine ⟨eventOfWord_word.injective, fun e f h => ?_⟩
  obtain ⟨hhead, hts⟩ : e.head = f.head ∧ e.ts = f.ts := by simpa [ErrorContext.words_eq] using h
  rw [← errorOfWords_head e, hhead, hts, errorOfWords_head]

/-- Settles O9: the codes are those the rules list, and the opcodes of the log words are reserved. -/
theorem logWordsGiveTheirFields : Obligations.LogWordsGiveTheirFields := by
  refine ⟨rfl, rfl, rfl, rfl, rfl, rfl, rfl, rfl, rfl, rfl, rfl, rfl, rfl, rfl, rfl, rfl, rfl, rfl, rfl, rfl,
    fun e => ⟨e.head, e.words_eq, e.head_opcode, e.head_kind, e.head_zero, e.head_dropped, e.head_flags⟩,
    fun op hop b2 b1 b0 rest => ?_⟩
  have habove : ∀ op ∈ [0x40#8, 0x41#8, 0x42#8, 0x43#8, 0x44#8, 0x45#8, 0x50#8], 0x35 ≤ op.toNat := by decide
  exact (reservedOpcodesAreRefused op b2 b1 b0 rest).mpr (.inr (.inr (.inr (habove op hop))))

/-! ### Payloads too long, and records refused -/

/-- What is admitted and refused by its body is refused by name. -/
theorem whenAdmitted_refused {a : Agent} {needsInit : Bool} {s : State}
    {body : State → Host.Outcome State Fault Refusal} {r : Refusal} (hctx : s.ctx = a)
    (hlife : needsInit = true → s.life = .ready) (hbody : body s = .refused r) :
    whenAdmitted a needsInit s body = .refused r :=
  (whenAdmitted_of a needsInit s body hctx hlife).trans hbody

/-- A payload no length field can name fails the check of decision D35. -/
theorem payloadCheck_refused {data : List Byte} {r : Refusal} {o : Host.Outcome State Fault Refusal}
    (hlong : payloadFits data = false) : (if !payloadFits data then .refused r else o) = .refused r := by
  rw [hlong]
  rfl

/-- Settles O13: only the four operations with a payload can have one too long, and each checks it first. -/
theorem overlongPayloadsAreRefused : Obligations.OverlongPayloadsAreRefused := by
  rintro i s ⟨hctx, hlife⟩ hlong
  cases i
  case setResponse | mWrite | mWriteRead | devWrite =>
    apply whenAdmitted_refused hctx hlife
    exact payloadCheck_refused hlong
  all_goals cases hlong

/-- Settles O56, for each of the two agents: its record is consumed, and then marked as any refused operation is. -/
theorem refusedRecordsAreMarked : Obligations.RefusedRecordsAreMarked := by
  refine fun s s' e => ⟨fun hagent herror => ?_, fun hagent hseq herror => ?_⟩
  · rw [step_of_decode_error hagent nofun herror, State.refuseOp_eq]
    rfl
  · rw [step_of_decode_error hagent (fun _ => hseq) herror, State.refuseOp_eq]
    rfl

end Sys2Proof.Machine

/-! PROOFS. The interrupt-context operations of the slave engine (40_slave_events.md): where one is refused, and the
next state of each where it is admitted. -/

namespace Sys2Proof.Machine

/-! ### Refused on admission -/

/-- Each of the six interrupt-context operations is admitted in its own context and after INIT (rule R148). -/
theorem exec_eq_whenAdmitted_of_irq {i : Instr} (h : i.agent = .irq) :
    ∃ body, ∀ s, exec i s = whenAdmitted .irq true s body := by
  cases i
  case onStart | onByte | onStop | onError | onTick1ms | respRead => exact ⟨_, fun _ => rfl⟩
  all_goals cases h

theorem whenAdmitted_of_wrongContext {a : Agent} {needsInit : Bool} {s : State}
    {body : State → Host.Outcome State Fault Refusal} (hctx : s.ctx ≠ a)
    (hlife : needsInit = true → s.life = .ready) :
    whenAdmitted a needsInit s body = .next (refusedIn s .wrongContext) := by
  have hadmit : ¬ (needsInit = true ∧ s.life = .uninit) := by
    rintro ⟨hneeds, huninit⟩
    cases (hlife hneeds).symm.trans huninit
  rw [whenAdmitted, if_neg hctx, if_neg hadmit, State.refuseOp_eq]

theorem whenAdmitted_of_notInit {a : Agent} {needsInit : Bool} {s : State}
    {body : State → Host.Outcome State Fault Refusal} (hctx : s.ctx = a) (hneeds : needsInit = true)
    (hlife : s.life = .uninit) : whenAdmitted a needsInit s body = .next (refusedIn s .notInit) := by
  rw [whenAdmitted, if_pos hctx, if_pos ⟨hneeds, hlife⟩, State.refuseOp_eq]

theorem whenAdmitted_of_either {a : Agent} {needsInit : Bool} {s : State}
    {body : State → Host.Outcome State Fault Refusal} (hctx : s.ctx ≠ a) (hneeds : needsInit = true)
    (hlife : s.life = .uninit) : whenAdmitted a needsInit s body = .next s.refuseEither := by
  rw [whenAdmitted, if_neg hctx, if_pos ⟨hneeds, hlife⟩]

/-- Settles O11, by the context and the life: all six operations have the one admission. -/
theorem irqOperationsOutOfPlaceAreRefused : Obligations.IrqOperationsOutOfPlaceAreRefused := by
  intro i s hagent
  obtain ⟨body, hexec⟩ := exec_eq_whenAdmitted_of_irq hagent
  rw [hexec s]
  refine ⟨fun hctx hlife => ?_, fun hctx hlife => ?_, fun hctx hlife => ?_⟩
  · exact whenAdmitted_of_wrongContext (by simp [hctx]) fun _ => hlife
  · exact whenAdmitted_of_notInit hctx rfl hlife
  · obtain ⟨r, hr, heq⟩ := s.refuseEither_eq
    exact ⟨r, _, hr, whenAdmitted_of_either (by simp [hctx]) rfl hlife, heq⟩

/-! ### A frame begins, grows, and times out -/

/-- The end of an interrupt-context operation (rules R36, R312). -/
theorem State.retire_of_irq {s : State} (h : s.ctx = .irq) :
    s.retire = { s with irqPc := s.irqPc + 1, ctx := .fg } := by
  rw [State.retire, h]

/-- Settles O14: the body has no test. -/
theorem onStartBeginsAFrame : Obligations.OnStartBeginsAFrame := by
  refine fun flags => ⟨rfl, fun s hadmit => ?_⟩
  have hctx : s.ctx = .irq := hadmit.1
  rw [exec, execOnStart, whenAdmitted_of .irq true s _ hadmit.1 hadmit.2]
  exact congrArg _ (State.retire_of_irq hctx)

/-- Settles O15, by whether a frame is in progress and has room. -/
theorem onByteAppendsOrOverruns : Obligations.OnByteAppendsOrOverruns := by
  refine fun byte => ⟨rfl, fun s hadmit => ?_⟩
  have hctx : s.ctx = .irq := hadmit.1
  rw [exec, execOnByte, whenAdmitted_of .irq true s _ hadmit.1 hadmit.2]
  refine ⟨fun hidle => ?_, fun hrecv hroom => ?_, fun hrecv hfull => ⟨_, ?_, s.takeError_taken _ _ _ hctx⟩⟩
  · rw [if_pos (by simp [hidle]), State.retire_of_irq hctx]
  · rw [if_neg (by simp [hrecv]), if_pos hroom, ← hrecv]
    exact congrArg _ (State.retire_of_irq hctx)
  · rw [if_neg (by simp [hrecv]), if_neg hfull.not_gt]

/-- Settles O19, by whether a frame is in progress and the saturated count has reached the timeout. -/
theorem onTickCountsAndTimesOut : Obligations.OnTickCountsAndTimesOut := by
  refine ⟨rfl, fun s hadmit => ?_⟩
  have hctx : s.ctx = .irq := hadmit.1
  rw [exec, execOnTick1ms, whenAdmitted_of .irq true s _ hadmit.1 hadmit.2]
  refine ⟨fun hidle => ?_, fun hrecv hbelow => ?_, fun hrecv hreached => ⟨_, ?_, s.takeError_taken _ _ _ hctx⟩⟩
  · rw [if_pos (by simp [hidle]), State.retire_of_irq hctx]
  · rw [if_neg (by simp [hrecv])]
    exact (if_neg hbelow.not_ge).trans (congrArg _ (State.retire_of_irq hctx))
  · rw [if_neg (by simp [hrecv]), ← s.takeError_frame]
    exact if_pos hreached

/-! ### A frame is finished (rule R142) -/

/-- An empty message is dropped where the configuration says so. -/
theorem State.acceptMessage_of_dropped {s : State} {m : Message} (hempty : m.length = 0)
    (hdropped : s.cfg.enqueueEmpty = false) : s.acceptMessage m = s := by
  rw [State.acceptMessage, if_pos ⟨hempty, hdropped⟩]

/-- With the ring full a message is reported lost, and the slave re-armed where the configuration asks it. -/
theorem State.acceptMessage_of_full {s : State} {m : Message} (hkept : m.length ≠ 0 ∨ s.cfg.enqueueEmpty = true)
    (hfull : s.cfg.ringCapacity ≤ s.ring.count) :
    s.acceptMessage m = if s.cfg.stopOverrunRearm then (s.report .overrun m.flags true m.ts).rearm
      else s.report .overrun m.flags true m.ts := by
  rw [State.acceptMessage, if_neg (by simpa [or_iff_not_imp_left] using hkept), if_pos hfull]

/-- The meaning of ON_STOP where it finds a frame. -/
theorem exec_onStop_of_receiving {s : State} {flags : Flags} (hadmit : Admitted (.onStop flags) s)
    (hrecv : s.frame.receiving = true) :
    exec (.onStop flags) s =
      .next (s.drawNow.2.clearFrame.acceptMessage (messageOf s.frame flags s.drawNow.1)).retire := by
  rw [exec, execOnStop, whenAdmitted_of .irq true s _ hadmit.1 hadmit.2, if_neg (by simp [hrecv])]

/-- Settles O16, by whether a frame is in progress and what becomes of its message. -/
theorem onStopFinalizesTheFrame : Obligations.OnStopFinalizesTheFrame := by
  refine fun flags => ⟨rfl, fun s hadmit => ?_⟩
  have hctx : s.ctx = .irq := hadmit.1
  refine ⟨fun ts rest hnow => ?_, fun hidle => ?_, fun hrecv hempty hdropped => ?_, fun hrecv hkept hfull => ?_,
    fun hrecv hkept hroom => ?_⟩
  · obtain ⟨hstate, -, hfull⟩ := (nowMsIsTheNextDraw s).1 ts rest hnow
    exact ⟨congrArg State.env hstate, hfull⟩
  · rw [exec, execOnStop, whenAdmitted_of .irq true s _ hadmit.1 hadmit.2, if_pos (by simp [hidle])]
    refine congrArg _ ?_
    ext1 <;> simp [hctx, reported]
  · rw [exec_onStop_of_receiving hadmit hrecv,
      State.acceptMessage_of_dropped (by simp [messageOf, hempty]) (by simpa using hdropped)]
    refine congrArg _ ?_
    ext1 <;> simp [hctx]
  · rw [exec_onStop_of_receiving hadmit hrecv,
      State.acceptMessage_of_full (by simpa [messageOf] using hkept) (by simp [hfull])]
    refine congrArg _ ?_
    cases hrearm : s.cfg.stopOverrunRearm <;>
      (ext1 <;> simp [hctx, hrearm, reported, messageOf, faultsAfterRearm])
  · rw [exec_onStop_of_room flags hctx (hadmit.2 rfl) hrecv hkept hroom]
    refine congrArg _ ?_
    ext1 <;> simp [hctx, messageOf]

/-! ### Errors (rules R143, R144) -/

/-- Settles O17: the body has no test. -/
theorem onErrorReportsAndResets : Obligations.OnErrorReportsAndResets := by
  refine fun flags => ⟨rfl, fun s hadmit => ?_⟩
  have hctx : s.ctx = .irq := hadmit.1
  rw [exec, execOnError, whenAdmitted_of .irq true s _ hadmit.1 hadmit.2]
  exact ⟨_, rfl, s.takeError_taken _ _ _ hctx⟩

/-- The tests of Classify on a word of 16 bits. -/
theorem classify_full {p : Params} (hwidth : p.flagsWidth = 16) (word : Flags) : classify p word =
    if word.getLsbD p.bitBusErr then .busError
    else if word.getLsbD p.bitArbLost then .arbitrationLost
    else if word.getLsbD p.bitOvr then .overrun
    else if word.getLsbD p.bitNack then nackKindOf p.nackKind
    else if word.getLsbD p.bitLineStuck then .lineStuck
    else if word.getLsbD p.bitFrameFmt then .frame
    else p.emptyFlagsKind := by
  simp only [classify, flagSet_full _ _ _ hwidth]

/-- Settles O18: at the full width a flag is set where its bit of the word is. -/
theorem classifyFollowsThePriority : Obligations.ClassifyFollowsThePriority := by
  intro p flags hwidth
  simp only [classify_full hwidth]
  refine ⟨fun hbus => ?_, fun hbus harb => ?_, fun hbus harb hovr => ?_, fun hbus harb hovr hnack => ?_,
    fun hbus harb hovr hnack hstuck => ?_, fun hbus harb hovr hnack hstuck hframe => ?_,
    fun hbus harb hovr hnack hstuck hframe => ?_, fun other hagree => ?_⟩
  · simp [hbus]
  · simp [hbus, harb]
  · simp [hbus, harb, hovr]
  · cases p.nackKind with
    | nack => simp [hbus, harb, hovr, hnack, nackKindOf]
    | frame => simp [hbus, harb, hovr, hnack, nackKindOf]
  · simp [hbus, harb, hovr, hnack, hstuck]
  · simp [hbus, harb, hovr, hnack, hstuck, hframe]
  · simp [hbus, harb, hovr, hnack, hstuck, hframe]
  · simp only [List.forall_mem_cons] at hagree
    simp [hagree]

/-! ### The response is read (rule R146) -/

/-- Settles O20, by whether the cursor is at a byte of a pending response. -/
theorem respReadServesTheResponse : Obligations.RespReadServesTheResponse := by
  refine ⟨rfl, fun s hadmit => ?_⟩
  have hctx : s.ctx = .irq := hadmit.1
  rw [exec, execRespRead, whenAdmitted_of .irq true s _ hadmit.1 hadmit.2]
  refine ⟨fun v hpending hcursor hbyte => ?_, fun hspent => ?_⟩
  · rw [if_pos ⟨hpending, hcursor⟩, List.getD_eq_getElem?_getD, hbyte]
    exact congrArg _ (State.retire_of_irq hctx)
  · have hdone : ¬ (s.resp.pending = true ∧ s.resp.cursor < s.resp.length) := by
      rintro ⟨hpending, hcursor⟩
      simp [hpending] at hspent
      omega
    rw [if_neg hdone]
    exact congrArg _ (State.retire_of_irq hctx)

end Sys2Proof.Machine

/-! PROOFS. The foreground operations of the slave engine (41_slave_api.md): where one is refused, and the next state of
each where it is admitted. -/

namespace Sys2Proof.Machine

/-! ### Admission, and the end of a foreground operation -/

/-- Every operation is a body behind one and the same check: that of its agent and of its need for INIT (rules R148,
R187, R232). -/
theorem exec_eq_whenAdmitted (i : Instr) : ∃ body, ∀ s, exec i s = whenAdmitted i.agent i.needsInit s body := by
  cases i <;> exact ⟨_, fun _ => rfl⟩

/-- The end of a foreground operation (rule R36). -/
theorem State.retire_of_fg {s : State} (h : s.ctx = .fg) : s.retire = { s with fgPc := s.fgPc + 1 } := by
  ext1 <;> simp [h]

/-- Settles O12, by the context and the life: all eleven operations have the one admission. -/
theorem foregroundOperationsOutOfPlaceAreRefused : Obligations.ForegroundOperationsOutOfPlaceAreRefused := by
  intro i s hagent
  obtain ⟨body, hexec⟩ := exec_eq_whenAdmitted i
  rw [hexec s, hagent]
  refine ⟨fun hctx hlife => ?_, fun hctx hneeds hlife => ?_, fun hctx hneeds hlife => ?_⟩
  · exact whenAdmitted_of_wrongContext (by simp [hctx]) fun hneeds => hlife.resolve_left (by simp [hneeds])
  · exact whenAdmitted_of_notInit hctx hneeds hlife
  · obtain ⟨r, hr, heq⟩ := s.refuseEither_eq
    exact ⟨r, _, hr, whenAdmitted_of_either (by simp [hctx]) hneeds hlife, heq⟩

/-! ### Registration and reset (rules R180, R181) -/

/-- The end of an operation whose body is a reset (rule R181). -/
theorem State.resetBody_retire_of_fg {s : State} (h : s.ctx = .fg) :
    s.resetBody.retire = { cleared s with fgPc := s.fgPc + 1 } := by
  rw [State.resetBody_eq]
  exact State.retire_of_fg h

/-- Settles O24: INIT is admitted before and after INIT, and is the reset of the state with the registration made. -/
theorem initRegistersAndResets : Obligations.InitRegistersAndResets := by
  refine fun c => ⟨rfl, fun s hctx => ?_⟩
  rw [exec, execInit, whenAdmitted_of .fg false s _ hctx nofun]
  exact congrArg _ (State.resetBody_retire_of_fg hctx)

/-- Settles O25: the body has no test. -/
theorem resetClearsTheEngine : Obligations.ResetClearsTheEngine := by
  refine ⟨rfl, fun s ⟨hctx, hlife⟩ => ?_⟩
  rw [exec, execReset, whenAdmitted_of .fg true s _ hctx hlife]
  exact congrArg _ (State.resetBody_retire_of_fg hctx)

/-! ### The ring is read (rule R183) -/

/-- Settles O27, by whether the ring is empty, and whether a pop clears the response. -/
theorem popReturnsTheOldest : Obligations.PopReturnsTheOldest := by
  refine ⟨rfl, fun s ⟨hctx, hlife⟩ => ⟨fun hempty => ?_, fun m hcount hslot => ?_⟩⟩
  · rw [exec, execPopMessage, whenAdmitted_of .fg true s _ hctx hlife, if_pos hempty]
    exact congrArg _ (State.retire_of_fg hctx)
  · have holdest : s.oldest = m := by rw [State.oldest, List.getD_eq_getElem?_getD, hslot, Option.getD_some]
    rw [exec_popMessage_of_nonempty hctx (hlife rfl) hcount.ne', holdest]
    refine congrArg _ ?_
    cases s.cfg.popClearsResponse with
    | false => exact State.retire_of_fg hctx
    | true => exact State.retire_of_fg hctx

/-! ### The response is staged, returned and cleared (rules R184 to R186) -/

/-- The meaning of SET_RESPONSE with a payload its record can hold (rule R184, decision D35). -/
theorem exec_setResponse_of_fits {s : State} {data : List Byte} (hadmit : Admitted (.setResponse data) s)
    (hlen : data.length ≤ 255) :
    exec (.setResponse data) s =
      if data.length = 0 then .next (s.clearResponse.drawBool.2.give (.accepted s.clearResponse.drawBool.1)).retire
      else if s.cfg.respMax < data.length then .next (s.give (.accepted false)).retire
      else .next (({ s with resp := { bytes := data, length := data.length, cursor := 0, pending := true } }).give
        (.accepted true)).retire := by
  obtain ⟨hctx, hlife⟩ := hadmit
  rw [exec, execSetResponse, whenAdmitted_of .fg true s _ hctx hlife, if_neg (by simpa [payloadFits_iff] using hlen)]

/-- Settles O28, by whether there is a byte, and whether the response buffer has room for them all. -/
theorem setResponseStagesItsBytes : Obligations.SetResponseStagesItsBytes := by
  refine fun data => ⟨rfl, fun s hadmit hlen => ?_⟩
  have hctx : s.ctx = .fg := hadmit.1
  rw [exec_setResponse_of_fits hadmit hlen]
  refine ⟨fun hnil => ⟨s.clearResponse.drawBool.1, ?_⟩, fun hne hlong => ?_, fun hne hroom => ?_⟩
  · rw [if_pos (List.length_eq_zero_iff.mpr hnil)]
    exact congrArg _ (State.retire_of_fg hctx)
  · rw [if_neg (mt List.length_eq_zero_iff.mp hne), if_pos hlong]
    exact congrArg _ (State.retire_of_fg hctx)
  · rw [if_neg (mt List.length_eq_zero_iff.mp hne), if_neg hroom.not_gt]
    exact congrArg _ (State.retire_of_fg hctx)

/-- Settles O29, by whether a response is pending. -/
theorem getResponseReturnsTheWhole : Obligations.GetResponseReturnsTheWhole := by
  refine ⟨rfl, fun s ⟨hctx, hlife⟩ => ?_⟩
  rw [exec, execGetResponse, whenAdmitted_of .fg true s _ hctx hlife]
  cases s.resp.pending with
  | false => exact congrArg Host.Outcome.next (State.retire_of_fg hctx)
  | true => exact congrArg Host.Outcome.next (State.retire_of_fg hctx)

/-- Settles O30: the body has no test. -/
theorem clearResponseEmptiesIt : Obligations.ClearResponseEmptiesIt := by
  refine ⟨rfl, fun s ⟨hctx, hlife⟩ => ?_⟩
  rw [exec, execClearResponse, whenAdmitted_of .fg true s _ hctx hlife]
  exact congrArg _ (State.retire_of_fg hctx)

end Sys2Proof.Machine

/-! PROOFS. The master bus (42_master_bus.md): the configurations of the lines from Begin to End, the primitives as atomic
steps, and that the interrupt-context operations have no part in either. -/

namespace Sys2Proof.Machine

/-! ### The configurations of the lines and the snapshot (rules R222, R223, R343) -/

/-- `LinesMove ls m ls' m'`: the configurations of the lines and the snapshot stay as they are, or Begin takes the lines,
or End gives them back. -/
inductive LinesMove (ls : Lines) (m : Master) (ls' : Lines) (m' : Master) : Prop
  | keep (hscl : ls'.cfgScl = ls.cfgScl) (hsda : ls'.cfgSda = ls.cfgSda) (howns : m'.owns = m.owns)
      (hsnap : m'.snap = m.snap)
  | take (hfree : m.owns = false) (howned : m'.owns = true) (hsnap : m'.snap = some (ls.cfgScl, ls.cfgSda))
  | giveBack (howned : m.owns = true) (hfree : m'.owns = false) (hsnap : m.snap = some (ls'.cfgScl, ls'.cfgSda))

/-- The position of the master has no part in it. -/
theorem LinesMove.setSeq {ls ls' : Lines} {m m' : Master} (h : LinesMove ls m ls' m') (seq : Option Seq) :
    LinesMove ls m ls' { m' with seq } := by
  cases h with
  | keep hscl hsda howns hsnap => exact .keep hscl hsda howns hsnap
  | take hfree howned hsnap => exact .take hfree howned hsnap
  | giveBack howned hfree hsnap => exact .giveBack howned hfree hsnap

/-- The lines and the master of `t` come from those of `s` by such a move. -/
def MovesLines (s t : State) : Prop := LinesMove s.lines s.master t.lines t.master

theorem movesLines_keep {s t : State} (h : t.lines = s.lines ∧ t.master = s.master) : MovesLines s t := by
  rw [MovesLines, h.1, h.2]
  exact .keep rfl rfl rfl rfl

theorem Lines.drive_cfg (ls : Lines) (l : Line) (d : Drive) :
    (ls.drive l d).cfgScl = ls.cfgScl ∧ (ls.drive l d).cfgSda = ls.cfgSda := by
  cases l <;> exact ⟨rfl, rfl⟩

/-- In its place, the first step of Begin finds the lines free, and the first step of End finds them owned. -/
theorem runPrim_movesLines {p : Prim} {rest : List Prim} {q q' : Seq} {s s' : State} {b : Bool}
    (hplace : ownsAfter s.master.owns (p :: rest) = some b) (h : runPrim p q s = .ok (q', s')) : MovesLines s s' := by
  cases p <;> simp only [runPrim] at h
  case snap =>
    cases h
    cases howns : s.master.owns with
    | false => exact .take howns rfl rfl
    | true => simp [howns, ownsAfter] at hplace
  case restore =>
    split at h <;> cases h
    next hsnap =>
    cases howns : s.master.owns with
    | false => simp [howns, ownsAfter] at hplace
    | true => exact .giveBack howns rfl hsnap
  case line l d =>
    split at h <;> cases h
    obtain ⟨hscl, hsda⟩ := s.lines.drive_cfg l d
    exact .keep hscl hsda rfl rfl
  case sampleAck | sampleBit =>
    split at h <;> cases h
    rw [State.sample_state]
    exact .keep rfl rfl rfl rfl
  case rearm => cases h; exact movesLines_keep (by simp)
  case delay | call => cases h; exact .keep rfl rfl rfl rfl

/-- The way on after a stage writes the position of the master, and nothing else of the master or of the lines. -/
theorem State.settle_bus (s : State) (q : Seq) :
    (s.settle q).lines = s.lines ∧ ∃ seq, (s.settle q).master = { s.master with seq } := by
  obtain ⟨q', heq, -⟩ | ⟨r, heq⟩ | ⟨r, heq⟩ := s.settle_cases q <;> rw [heq]
  · exact ⟨rfl, _, rfl⟩
  · exact ⟨by simp [State.finish], none, by simp [State.finish]⟩
  · exact ⟨by simp [State.finish], none, by simp [State.finish]⟩

theorem masterStep_movesLines {q : Seq} {s t : State} (hq : q.Ok s.master.owns) (h : masterStep q s = .next t) :
    MovesLines s t := by
  obtain ⟨hne, hplace⟩ := hq
  obtain ⟨p, rest, htodo⟩ := List.exists_cons_of_ne_nil hne
  rw [htodo] at hplace
  obtain ⟨f, -, hfault⟩ | ⟨q', s', hrun, hnext⟩ := masterStep_cons (s := s) htodo
  · rw [hfault] at h
    cases h
  · rw [hnext] at h
    cases h
    have hmove := runPrim_movesLines hplace hrun
    split
    · obtain ⟨hlines, seq, hmaster⟩ := s'.settle_bus q'
      rw [MovesLines, hlines, hmaster]
      exact hmove.setSeq seq
    · exact hmove.setSeq (some q')

theorem Begins.bus {s u : State} {a : Agent} (h : Begins s a u) : u.lines = s.lines ∧ u.master = s.master := by
  rw [h.state]
  exact ⟨rfl, rfl⟩

/-- By the invariant a master operation begins with the lines free, and goes on with every primitive in its place. -/
theorem step_movesLines {s t : State} (hinv : s.Inv) (h : step s = .next t) : MovesLines s t := by
  cases step_stepsTo h with
  | idle => exact movesLines_keep ⟨rfl, rfl⟩
  | retired hbegin _ hrun => exact movesLines_keep (by simp [hrun.bus, hbegin.bus])
  | registered hbegin _ _ hrun => exact movesLines_keep (by simp [hrun.bus, hbegin.bus])
  | opened job acts hbegin hseq =>
    rw [hbegin.state]
    exact .take (hinv.atRest hseq) rfl rfl
  | resumed hbegin _ hseq hstep =>
    obtain ⟨hlines, hmaster⟩ := hbegin.bus
    have hmove := masterStep_movesLines (hmaster ▸ hinv.seqOk _ hseq) hstep
    rw [MovesLines, hlines, hmaster] at hmove
    exact hmove

/-- Settles O46: who owns the lines before and after the step tells which move it makes. -/
theorem snapshotIsRestored : Obligations.SnapshotIsRestored := by
  intro s t hinv h
  cases step_movesLines hinv h with
  | keep hscl hsda howns hsnap =>
    rw [howns]
    exact ⟨fun _ _ => ⟨hscl, hsda⟩, fun hfree => by simp [hfree], fun _ _ => hsnap, fun howned => by simp [howned]⟩
  | take hfree howned hsnap => exact ⟨by simp [howned], fun _ _ => hsnap, by simp [hfree], by simp [hfree]⟩
  | giveBack howned hfree hsnap => exact ⟨by simp [howned], by simp [howned], by simp [hfree], fun _ _ => hsnap⟩

/-! ### The primitives as atomic steps (rule R221) -/

section
variable {q q' : Seq} {p : Prim} {rest : List Prim} {s s' : State}

/-- With more of the stage to come, the operation goes on where the primitive leaves it. -/
theorem masterStep_of_runPrim_ok (hrest : rest ≠ []) (h : runPrim p { q with todo := rest } s = .ok (q', s')) :
    masterStep { q with todo := p :: rest } s = .next (s'.goOn q') := by
  obtain ⟨f, hrun, -⟩ | ⟨q₁, s₁, hrun, hstep⟩ := masterStep_cons (q := { q with todo := p :: rest }) (s := s) rfl
  · cases h.symm.trans hrun
  · cases h.symm.trans hrun
    rw [hstep, if_neg hrest]

theorem masterStep_of_runPrim_error {f : Fault} (h : runPrim p { q with todo := rest } s = .error f) :
    masterStep { q with todo := p :: rest } s = .fault f := by
  obtain ⟨f₁, hrun, hstep⟩ | ⟨q₁, s₁, hrun, -⟩ := masterStep_cons (q := { q with todo := p :: rest }) (s := s) rfl
  · cases h.symm.trans hrun
    exact hstep
  · cases h.symm.trans hrun

theorem runPrim_line (l : Line) (d : Drive) (howns : s.master.owns = true) :
    runPrim (.line l d) q s = .ok (q, s.driveLine l d) := by
  rw [runPrim, if_pos howns]

theorem runPrim_sampleAck (howns : s.master.owns = true) :
    runPrim .sampleAck q s = .ok ({ q with ok := !s.sample.1 }, s.sample.2) := by
  rw [runPrim, if_pos howns]

theorem runPrim_sampleBit (i : Nat) (howns : s.master.owns = true) :
    runPrim (.sampleBit i) q s = .ok ({ q with rx := putBit q.rx i s.sample.1 }, s.sample.2) := by
  rw [runPrim, if_pos howns]

/-- `Line` and `Sample` are admitted only while the master owns the lines (log entry 15). -/
theorem runPrim_of_not_owned (hp : (∃ l d, p = .line l d) ∨ p = .sampleAck ∨ ∃ i, p = .sampleBit i)
    (hfree : s.master.owns = false) : runPrim p q s = .error .lineNotOwned := by
  obtain ⟨l, d, rfl⟩ | rfl | ⟨i, rfl⟩ := hp <;> simp [runPrim, hfree]

end

/-- A Sample reads 0 while the master drives SDA low, with no draw. -/
theorem State.sample_of_low {s : State} (h : s.lines.drvSda = .low) :
    s.sample = (false, s.logEvent (.sample false)) := by
  simp only [State.sample, State.readSda, h]

/-- A Sample of a released line reads the next draw of the bus device. -/
theorem State.sample_of_rel {s : State} {v : Bool} {draws : List Bool} (h : s.lines.drvSda = .rel)
    (hdraw : s.env.sda = v :: draws) :
    s.sample = (v, { s with env := { s.env with sda := draws } }.logEvent (.sample v)) := by
  simp only [State.sample, State.readSda, State.drawSda, h, hdraw]

/-- Settles O36, primitive by primitive. -/
theorem primitivesHaveTheirEffect : Obligations.PrimitivesHaveTheirEffect := by
  intro q p rest s hrest
  refine ⟨fun d howns => ?_, fun d howns => ?_, ?_, fun howns hlow => ?_, fun v draws howns hrel hdraw => ?_,
    fun i howns hlow => ?_, fun i v draws howns hrel hdraw => ?_, fun hp hfree => ?_⟩
  · exact masterStep_of_runPrim_ok hrest (runPrim_line .scl d howns)
  · exact masterStep_of_runPrim_ok hrest (runPrim_line .sda d howns)
  · exact masterStep_of_runPrim_ok (p := .delay) hrest rfl
  · rw [masterStep_of_runPrim_ok hrest (runPrim_sampleAck howns), State.sample_of_low hlow]
    rfl
  · rw [masterStep_of_runPrim_ok hrest (runPrim_sampleAck howns), State.sample_of_rel hrel hdraw]
    rfl
  · rw [masterStep_of_runPrim_ok hrest (runPrim_sampleBit i howns), State.sample_of_low hlow]
    rfl
  · rw [masterStep_of_runPrim_ok hrest (runPrim_sampleBit i howns), State.sample_of_rel hrel hdraw]
    rfl
  · exact masterStep_of_runPrim_error (runPrim_of_not_owned hp hfree)

/-! ### The interrupt-context operations and the bus (rule R233) -/

/-- `s` with other lines. -/
@[simps] def State.withLines (s : State) (lines : Lines) : State := { s with lines }

section
variable (s : State) (ls : Lines)

theorem State.drawNow_withLines : (s.withLines ls).drawNow = (s.drawNow.1, s.drawNow.2.withLines ls) := by
  simp only [State.drawNow, State.withLines_env]
  split <;> rfl

theorem State.report_withLines (k : ErrorKind) (f : Flags) (d : Bool) (ts : Timestamp) :
    (s.withLines ls).report k f d ts = (s.report k f d ts).withLines ls := by
  ext1 <;> simp [reported]

theorem State.rearm_withLines : (s.withLines ls).rearm = s.rearm.withLines ls := by
  ext1 <;> simp [faultsAfterRearm]

theorem State.retire_withLines : (s.withLines ls).retire = s.retire.withLines ls := by
  ext1 <;> simp

theorem State.forcedReset_withLines : (s.withLines ls).forcedReset = s.forcedReset.withLines ls := by
  simp only [State.forcedReset, State.withLines_cfg, State.rearm_withLines]
  split <;> rfl

theorem State.takeError_withLines (k : ErrorKind) (f : Flags) (d : Bool) :
    (s.withLines ls).takeError k f d = (s.takeError k f d).withLines ls := by
  simp only [State.takeError, State.drawNow_withLines, State.report_withLines, State.forcedReset_withLines]

theorem State.acceptMessage_withLines (msg : Message) :
    (s.withLines ls).acceptMessage msg = (s.acceptMessage msg).withLines ls := by
  simp only [State.acceptMessage, State.withLines_cfg, State.withLines_ring, State.report_withLines,
    State.rearm_withLines]
  split
  · rfl
  · split
    · split <;> rfl
    · rfl

theorem State.refuseOp_withLines (r : RefusalMark) : (s.withLines ls).refuseOp r = (s.refuseOp r).withLines ls :=
  (s.refuse r).retire_withLines ls

end

/-- With other lines a meaning has the same outcome, but for the lines, which stay those it was given. -/
def IgnoresLines (body : State → Host.Outcome State Fault Refusal) : Prop :=
  ∀ s ls, body (s.withLines ls) = mapNext (fun t => t.withLines ls) (body s)

/-- An operation that makes no test ignores the lines if its writes do. -/
theorem IgnoresLines.retire {f : State → State} (h : ∀ s ls, f (s.withLines ls) = (f s).withLines ls) :
    IgnoresLines fun s => .next (f s).retire := by
  intro s ls
  simp only [h, State.retire_withLines, mapNext]

theorem IgnoresLines.ite {c : State → Prop} [DecidablePred c] {x y : State → Host.Outcome State Fault Refusal}
    (hc : ∀ s ls, c (s.withLines ls) = c s) (hx : IgnoresLines x) (hy : IgnoresLines y) :
    IgnoresLines fun s => if c s then x s else y s := by
  intro s ls
  simp only [hc, hx s ls, hy s ls]
  split <;> rfl

/-- The admission of an operation reads the context and the life alone (rule R148). -/
theorem IgnoresLines.whenAdmitted {a : Agent} {needsInit : Bool} {body : State → Host.Outcome State Fault Refusal}
    (h : IgnoresLines body) : IgnoresLines fun s => whenAdmitted a needsInit s body :=
  .ite (fun _ _ => rfl)
    (.ite (fun _ _ => rfl) (.retire fun _ _ => rfl) h)
    (.ite (fun _ _ => rfl) (.retire fun _ _ => rfl) (.retire fun _ _ => rfl))

/-- Every test an interrupt-context operation makes, and every write, is of the engine. -/
theorem exec_ignoresLines {i : Instr} (hagent : i.agent = .irq) : IgnoresLines (exec i) := by
  have hskip : IgnoresLines fun s => .next s.retire := .retire fun _ _ => rfl
  cases i <;> simp only [Instr.agent, reduceCtorEq] at hagent <;> apply IgnoresLines.whenAdmitted
  case onStart => exact .retire fun _ _ => rfl
  case onByte byte =>
    refine .ite (fun _ _ => rfl) hskip (.ite (fun _ _ => rfl) ?_ ?_)
    · exact .retire fun _ _ => rfl
    · exact .retire fun s ls => s.takeError_withLines ls _ _ _
  case onStop flags =>
    refine .ite (fun _ _ => rfl) (.retire fun s ls => ?_) (.retire fun s ls => ?_)
    · rw [State.drawNow_withLines, State.report_withLines]
    · rw [State.drawNow_withLines]
      exact s.drawNow.2.clearFrame.acceptMessage_withLines ls _
  case onError flags => exact .retire fun s ls => s.takeError_withLines ls _ _ _
  case onTick1ms =>
    refine .ite (fun _ _ => rfl) hskip (.ite (fun _ _ => rfl) (.retire fun s ls => ?_) (.retire fun _ _ => rfl))
    simp only [State.takeError_frame, State.takeError_withLines]
  case respRead => exact .ite (fun _ _ => rfl) (.retire fun _ _ => rfl) (.retire fun _ _ => rfl)

/-- Everything an interrupt-context operation leads to: the engine's writes, and its end. -/
theorem exec_engineRun_of_irq {i : Instr} {s t : State} (hagent : i.agent = .irq) (h : exec i s = .next t) :
    ∃ u, EngineRun s u ∧ t = u.retire := by
  by_cases hctx : s.ctx = .irq
  · cases exec_answers i (by simp [hctx]) t h with
    | retired hrun => exact ⟨_, hrun, rfl⟩
    | registered c hi => rw [hi] at hagent; cases hagent
    | opened _ _ hfg => cases hctx.symm.trans hfg
  · obtain ⟨body, hexec⟩ := exec_eq_whenAdmitted_of_irq hagent
    rw [hexec, whenAdmitted, if_neg hctx] at h
    split at h <;> cases h
    · exact ⟨_, .refuse _ (.countDraw .refl), rfl⟩
    · exact ⟨_, .refuse _ .refl, rfl⟩

/-- Settles O22: the tests and the writes of an interrupt-context operation are the engine's, and leave the bus alone. -/
theorem irqOperationsIgnoreTheLines : Obligations.IrqOperationsIgnoreTheLines := by
  intro i s ls hagent
  refine ⟨exec_ignoresLines hagent s ls, fun t h => ?_⟩
  obtain ⟨u, hrun, rfl⟩ := exec_engineRun_of_irq hagent h
  simp [hrun.bus]

end Sys2Proof.Machine

/-! PROOFS. The transactions of the master (43_master_transactions.md): a transaction is run from its Begin to its End
against the pseudocode, entry by entry, and the five master operations are put together from their transactions. -/

namespace Sys2Proof.Machine

/-! ### Runs of atomic steps, counted by the call log -/

/-- The atomic steps of a master operation lead from `s` to `t`, in as many steps as the call log gains entries. -/
def RunsTo (s t : State) : Prop := ∃ k, t.log.calllog.length = s.log.calllog.length + k ∧ runMaster k s = .next t

theorem RunsTo.refl (s : State) : RunsTo s s := ⟨0, rfl, rfl⟩

theorem RunsTo.trans {s t u : State} (h : RunsTo s t) (h' : RunsTo t u) : RunsTo s u := by
  obtain ⟨m, hm, hrun⟩ := h
  obtain ⟨n, hn, hrun'⟩ := h'
  exact ⟨m + n, by omega, by rw [runMaster_add m n s t hrun, hrun']⟩

theorem State.finish_calllog (s : State) (r : Return) : (s.finish r).log.calllog = s.log.calllog := by
  simp [State.finish]

theorem State.settle_calllog (s : State) (q : Seq) : (s.settle q).log.calllog = s.log.calllog := by
  obtain ⟨q', heq, -⟩ | ⟨r, heq⟩ | ⟨r, heq⟩ := s.settle_cases q <;> rw [heq]
  · rfl
  · exact s.finish_calllog r
  · exact s.countDraw.finish_calllog r

/-- Each primitive makes one entry in the call log. -/
theorem runPrims_calllog_length {ps : List Prim} {q q' : Seq} {s s' : State} (h : runPrims ps q s = .ok (q', s')) :
    s'.log.calllog.length = s.log.calllog.length + ps.length := by
  induction ps generalizing q s with
  | nil => cases h; rfl
  | cons p rest ih =>
    rw [runPrims] at h
    split at h
    · cases h
    · next q₁ s₁ hrun =>
      obtain ⟨-, -, e, he⟩ := runPrim_frame hrun
      rw [ih h, he, List.length_append, List.length_cons, List.length_cons, List.length_nil]
      omega

/-- The primitives of a stage are run, and what follows the stage is settled. -/
theorem runsTo_settle {q q' : Seq} {s s' : State} (hne : q.todo ≠ []) (h : runPrims q.todo q s = .ok (q', s')) :
    RunsTo (s.goOn q) (s'.settle q') :=
  ⟨q.todo.length, by rw [State.settle_calllog, runPrims_calllog_length h]; rfl,
    runMaster_stage q.todo q q' s s' hne rfl h⟩

/-- A run from the Begin of a transaction to the end of the operation, as the meaning of the operation and the steps
that follow it: the meaning takes the first of them. -/
theorem RunsTo.masterStep_openTxn {job : Job} {acts : List Act} {s u : State}
    (h : RunsTo (s.goOn (openTxn job acts)) u) (hend : u.master.seq = none) :
    ∃ t, masterStep (openTxn job acts) s = .next t ∧
      runMaster (u.log.calllog.length - s.log.calllog.length - 1) t = .next u := by
  obtain ⟨k, hlen, hrun⟩ := h
  cases k with
  | zero => cases hrun; cases hend
  | succ k =>
    refine ⟨_, Machine.masterStep_openTxn job acts s, ?_⟩
    rw [hlen, State.goOn_log, show s.log.calllog.length + (k + 1) - s.log.calllog.length - 1 = k by omega]
    exact hrun

/-! ### A transaction, as the pseudocode reads it -/

/-- The entries of a transaction on the bus, up to the first NACK of a WriteByte: whether there was none, and the bytes
read after those of `buf`. -/
def Bus.runActs : List Act → List Byte → Bus → Option (Bool × List Byte × Bus)
  | [], buf, b => some (true, buf, b)
  | .start :: acts, buf, b => Bus.runActs acts buf b.start
  | .write x :: acts, buf, b =>
    (b.writeByte x).bind fun (ack, b) => if ack then Bus.runActs acts buf b else some (false, buf, b)
  | .read last :: acts, buf, b => (b.readByte last).bind fun (x, b) => Bus.runActs acts (buf ++ [x]) b

/-- A whole transaction: Begin, its entries, STOP and End. -/
def Bus.txn (b : Bus) (acts : List Act) : Option (Bool × List Byte × Bus) :=
  (Bus.runActs acts [] b.begin).map fun (ok, buf, b) => (ok, buf, b.stop.finish)

/-- The WriteBytes of a write phase are those of the pseudocode (rule R262). -/
theorem Bus.runActs_writeActs (bytes : List Byte) (acts : List Act) (buf : List Byte) (b : Bus) :
    Bus.runActs (writeActs bytes ++ acts) buf b =
      (Bus.writeBytes bytes b).bind fun (ok, b) => if ok then Bus.runActs acts buf b else some (false, buf, b) := by
  induction bytes generalizing b with
  | nil => rfl
  | cons x xs ih =>
    rw [Bus.writeBytes, writeActs, List.map_cons, List.cons_append, Bus.runActs]
    cases b.writeByte x with
    | none => rfl
    | some r =>
      obtain ⟨ack, b₁⟩ := r
      cases ack with
      | false => rfl
      | true => exact ih b₁

theorem readActs_succ (n : Nat) : readActs (n + 1) = .read (n == 0) :: readActs n := by
  simp [readActs, List.range_succ_eq_map, Function.comp_def, eq_comm]

/-- The ReadBytes of a read phase are those of the pseudocode (rule R263). -/
theorem Bus.runActs_readActs (n : Nat) (buf : List Byte) (b : Bus) :
    Bus.runActs (readActs n) buf b = (Bus.readBytes n b).map fun (xs, b) => (true, buf ++ xs, b) := by
  induction n generalizing buf b with
  | zero => simp [readActs, Bus.runActs, Bus.readBytes]
  | succ n ih =>
    rw [readActs_succ, Bus.runActs, Bus.readBytes]
    cases b.readByte (n == 0) with
    | none => rfl
    | some r =>
      obtain ⟨x, b₁⟩ := r
      dsimp only [Option.bind_some]
      rw [ih]
      cases Bus.readBytes n b₁ with
      | none => rfl
      | some r => simp

/-- The read phase is that of the pseudocode (rules R263, R264). -/
theorem Bus.runActs_readPhase (a : BusAddr) (n : Nat) (b : Bus) :
    Bus.runActs (.start :: .write (addressR a) :: readActs n) [] b = b.readPhase a n := by
  rw [Bus.runActs, Bus.runActs, Bus.readPhase]
  cases b.start.writeByte (addressR a) with
  | none => rfl
  | some r =>
    obtain ⟨ack, b₁⟩ := r
    cases ack with
    | false => rfl
    | true =>
      simp only [Option.bind_some, if_true, Bus.runActs_readActs]
      cases Bus.readBytes n b₁ <;> simp

/-- M_WRITE is one transaction (rule R262). -/
theorem Bus.txn_writeTxn (b : Bus) (a : BusAddr) (data : List Byte) :
    b.txn (writeTxn a data) = (b.mWrite a data).map fun (ok, b) => (ok, [], b) := by
  rw [Bus.txn, writeTxn, Bus.runActs, ← List.append_nil (writeActs _), Bus.runActs_writeActs, Bus.mWrite]
  cases Bus.writeBytes (addressW a :: data) b.begin.start with
  | none => rfl
  | some r => obtain ⟨ok, b₁⟩ := r; cases ok <;> rfl

/-- M_READ is one transaction (rule R263). -/
theorem Bus.txn_readTxn (b : Bus) (a : BusAddr) (n : Nat) : b.txn (readTxn a n) = b.mRead a n := by
  rw [Bus.txn, readTxn, Bus.runActs_readPhase, Bus.mRead]
  cases b.begin.readPhase a n <;> rfl

/-- WriteReadBody is one transaction, with a repeated start (rule R264). -/
theorem Bus.txn_writeReadTxn (b : Bus) (a : BusAddr) (tx : List Byte) (n : Nat) :
    b.txn (writeReadTxn a tx n) = b.writeRead a tx n := by
  rw [Bus.txn, writeReadTxn, List.cons_append, Bus.runActs, Bus.runActs_writeActs, Bus.writeRead]
  cases Bus.writeBytes (addressW a :: tx) b.begin.start with
  | none => rfl
  | some r =>
    obtain ⟨ok, b₁⟩ := r
    cases ok with
    | false => rfl
    | true =>
      simp only [Option.bind_some, if_true, Bus.runActs_readPhase]
      cases b₁.readPhase a n <;> rfl

/-- A probe is one transaction, of the address byte alone (rule R265). -/
theorem Bus.txn_probeTxn (b : Bus) (a : BusAddr) :
    b.txn (probeTxn a) = (b.probe a).map fun (ok, b) => (ok, [], b) := by
  rw [Bus.txn, probeTxn, Bus.runActs, Bus.runActs, Bus.probe]
  cases b.begin.start.writeByte (addressW a) with
  | none => rfl
  | some r => obtain ⟨ok, b₁⟩ := r; cases ok <;> rfl

/-! ### A transaction, as the machine runs it -/

/-- The bus of a state: the draws given, and the call log so far. -/
def State.bus (s : State) : Bus := { draws := s.env.sda, log := s.log.calllog }

/-- `s` with the master the owner of the lines: the snapshot holds their configurations (rule R222). -/
def State.owner (s : State) : State :=
  { s with master := { s.master with owns := true, snap := some (s.lines.cfgScl, s.lines.cfgSda) } }

/-- The lines under the control of the master, released. -/
def heldLines : Lines := { cfgScl := Config.mcfg, cfgSda := Config.mcfg, drvScl := .rel, drvSda := .rel }

/-- `s` inside a transaction, with the lines driven so, on the bus `b`. -/
def State.owning (s : State) (scl sda : Drive) (b : Bus) : State := s.owner.onBus (heldLines.at scl sda) b

/-- `s` after a transaction on the bus `b`: the master at rest, and the lines released. -/
def State.released (s : State) (b : Bus) : State := (restored s).onBus (restored s).lines b

@[simp] theorem State.released_cfg (s : State) (b : Bus) : (s.released b).cfg = s.cfg := rfl

/-- Begin (rule R222), from whatever the lines are at. -/
theorem runsTo_begin (s : State) (job : Job) (acts : List Act) :
    RunsTo (s.goOn (openTxn job acts))
      ((s.owning .rel .rel s.bus.begin).goOn (nextAct { openTxn job acts with todo := [] })) :=
  runsTo_settle (q := openTxn job acts) nofun rfl

/-- A transaction at its end, with its result. -/
def endedTxn (job : Job) (ok : Bool) (buf : List Byte) : Seq := { openTxn job [] with ok, buf }

/-- What follows a transaction depends on its result and on its job alone. -/
theorem State.afterTxn_congr (s : State) {q q' : Seq} (hok : q.ok = q'.ok) (hbuf : q.buf = q'.buf)
    (hjob : q.job = q'.job) : s.afterTxn q = s.afterTxn q' := by
  simp only [State.afterTxn, hok, hbuf, hjob]

theorem nextAct_nil {q : Seq} (h : q.acts = []) : nextAct q = closeTxn q := by
  rw [nextAct, h]

theorem nextAct_cons {q : Seq} {a : Act} {acts : List Act} (h : q.acts = a :: acts) :
    nextAct q = { q with todo := actPrims a, stage := .acting a, acts := acts, rx := 0 } := by
  rw [nextAct, h]

/-- The position at the end of the entry `a`, with `acts` to come. -/
def Seq.acted (q : Seq) (a : Act) (acts : List Act) (ok : Bool) (rx : Byte) : Seq :=
  { q with todo := [], stage := .acting a, acts, ok, rx }

/-- Every entry has primitives. -/
theorem actPrims_ne_nil (a : Act) : actPrims a ≠ [] := by
  cases a <;> exact nofun

section
variable {s : State} {q q' : Seq} {scl sda : Drive} {b b' : Bus}

/-- STOP and End (rules R225, R223). -/
theorem runsTo_close (s : State) (q : Seq) (scl sda : Drive) (b : Bus) :
    RunsTo ((s.owning scl sda b).goOn (closeTxn q)) ((s.released b.stop.finish).afterTxn q) := by
  have hrun := runsTo_settle (q := closeTxn q) nofun
    (runPrims_close s.owner heldLines b (closeTxn q) scl sda s.lines.cfgScl s.lines.cfgSda rfl rfl)
  exact State.afterTxn_congr (s.released b.stop.finish) (q := closeTxn q) (q' := q) rfl rfl rfl ▸ hrun

/-- One entry of a transaction. -/
theorem runsTo_act {s' : State} {a : Act} {acts : List Act} (hacts : q.acts = a :: acts)
    (h : runPrims (actPrims a) { q with todo := actPrims a, stage := .acting a, acts := acts, rx := 0 }
      (s.owning scl sda b) = .ok (q', s')) :
    RunsTo ((s.owning scl sda b).goOn (nextAct q)) (s'.settle q') := by
  rw [nextAct_cons hacts]
  exact runsTo_settle (actPrims_ne_nil a) h

/-- The entries of a transaction and its end: entry by entry the machine does to the bus what the pseudocode does, and
comes to what follows a transaction with this result. -/
theorem runsTo_acts {acts : List Act} {ok : Bool} {buf : List Byte} (hacts : q.acts = acts) (hok : q.ok = true)
    (h : Bus.runActs acts q.buf b = some (ok, buf, b')) :
    RunsTo ((s.owning scl sda b).goOn (nextAct q))
      ((s.released b'.stop.finish).afterTxn (endedTxn q.job ok buf)) := by
  induction acts generalizing q scl sda b with
  | nil =>
    cases h
    rw [nextAct_nil hacts, State.afterTxn_congr _ (q := endedTxn q.job true q.buf) (q' := q) hok.symm rfl rfl]
    exact runsTo_close s q scl sda b'
  | cons a acts ih =>
    cases a with
    | start =>
      exact (runsTo_act hacts (runPrims_start s.owner heldLines b _ scl sda rfl)).trans
        (ih (q := q.acted .start acts q.ok 0) rfl hok h)
    | write x =>
      obtain ⟨⟨ack, b₁⟩, hwrite, h⟩ := Option.bind_eq_some_iff.mp h
      refine (runsTo_act hacts (runPrims_writeByte s.owner heldLines b _ scl sda x ack b₁ rfl hwrite)).trans ?_
      cases ack with
      | false =>
        cases h
        exact runsTo_close s (q.acted (.write x) acts false 0) _ _ b'
      | true => exact ih (q := q.acted (.write x) acts true 0) rfl rfl h
    | read last =>
      obtain ⟨⟨x, b₁⟩, hread, h⟩ := Option.bind_eq_some_iff.mp h
      exact (runsTo_act hacts (runPrims_readByte s.owner heldLines b _ scl sda last x b₁ rfl rfl hread)).trans
        (ih (q := { q.acted (.read last) acts q.ok x with buf := q.buf ++ [x] }) rfl hok h)

end

/-- A whole transaction, from its Begin to what follows its End. -/
theorem runsTo_txn {s : State} {job : Job} {acts : List Act} {ok : Bool} {buf : List Byte} {b : Bus}
    (h : s.bus.txn acts = some (ok, buf, b)) :
    RunsTo (s.goOn (openTxn job acts)) ((s.released b).afterTxn (endedTxn job ok buf)) := by
  obtain ⟨⟨ok', buf', b'⟩, hacts, heq⟩ := Option.map_eq_some_iff.mp h
  cases heq
  exact (runsTo_begin s job acts).trans (runsTo_acts (q := { openTxn job acts with todo := [] }) rfl rfl hacts)

end Sys2Proof.Machine

/-! PROOFS. The five master operations, run without interruption: each is its pseudocode (rules R262 to R269). -/

namespace Sys2Proof.Machine

/-! ### The end of an operation -/

theorem State.finish_seq (s : State) (r : Return) : (s.finish r).master.seq = none := by
  simp [State.finish]

section
variable {s : State} (hctx : s.ctx = .fg)
include hctx

/-- A master operation in the foreground ends: it returns its result, and its position advances (rules R36, R270). -/
theorem State.finish_of_fg (r : Return) :
    s.finish r = { s with
      master := { s.master with seq := none }
      log := { s.log with returns := s.log.returns ++ [r] }
      fgPc := s.fgPc + 1 } := by
  rw [State.finish]
  exact State.retire_of_fg hctx

/-- A failed read returns any bytes, and takes a free value for them (rule R270, log entry 9). -/
theorem State.finishRead_of_fg (ok : Bool) (buf : List Byte) :
    s.finishRead ok buf = { s with
      master := { s.master with seq := none }
      log := { s.log with
        returns := s.log.returns ++ [if ok then .data true buf else .data false (Config.freeBytes s.env.drawn)] }
      env := { s.env with drawn := if ok then s.env.drawn else s.env.drawn + 1 }
      fgPc := s.fgPc + 1 } := by
  cases ok with
  | true => exact State.finish_of_fg hctx _
  | false => exact State.finish_of_fg (s := s.countDraw) hctx _

/-! ### A read -/

/-- A read is one transaction: its meaning, and the run of the steps that follow it. -/
theorem read_runs {i : Instr} {acts : List Act} {ok : Bool} {buf : List Byte} {b : Bus}
    (hexec : exec i s = masterStep (openTxn .read acts) s) (h : s.bus.txn acts = some (ok, buf, b)) :
    ∃ t any, exec i s = .next t ∧
      runMaster (b.log.length - s.log.calllog.length - 1) t =
        .next { restored s with
          log := { s.log with
            calllog := b.log
            returns := s.log.returns ++ [if ok then .data true buf else .data false any] }
          env := { s.env with sda := b.draws, drawn := if ok then s.env.drawn else s.env.drawn + 1 }
          fgPc := s.fgPc + 1 } := by
  have hend := State.finishRead_of_fg (s := s.released b) hctx ok buf
  have hrun : RunsTo (s.goOn (openTxn .read acts)) ((s.released b).finishRead ok buf) := runsTo_txn h
  rw [hend] at hrun
  obtain ⟨t, hstep, hrun⟩ := hrun.masterStep_openTxn rfl
  exact ⟨t, _, hexec.trans hstep, hrun⟩

/-! ### A write -/

/-- A run of a write from its first Begin to its result, as its meaning and the steps that follow it. -/
theorem write_runs {i : Instr} {job : Job} {acts : List Act} {ok : Bool} {b : Bus}
    (hexec : exec i s = masterStep (openTxn job acts) s)
    (h : RunsTo (s.goOn (openTxn job acts)) ((s.released b).finish (.done ok))) :
    ∃ t, exec i s = .next t ∧
      runMaster (b.log.length - s.log.calllog.length - 1) t =
        .next { restored s with
          log := { s.log with calllog := b.log, returns := s.log.returns ++ [.done ok] }
          env := { s.env with sda := b.draws }
          fgPc := s.fgPc + 1 } := by
  rw [State.finish_of_fg (s := s.released b) hctx] at h
  obtain ⟨t, hstep, hrun⟩ := h.masterStep_openTxn rfl
  exact ⟨t, hexec.trans hstep, hrun⟩

end

/-- The write transaction of a payload leads to what follows it, with its result. -/
theorem runsTo_writeTxn {s : State} {job : Job} {a : BusAddr} {data : List Byte} {ok : Bool} {b : Bus}
    (h : s.bus.mWrite a data = some (ok, b)) :
    RunsTo (s.goOn (openTxn job (writeTxn a data))) ((s.released b).afterTxn (endedTxn job ok [])) :=
  runsTo_txn (by rw [Bus.txn_writeTxn, h]; rfl)

/-! ### Ready-polling, and the chunks of a paged write (rules R266, R268) -/

/-- What a ReadyPoll with this result leads to: the next chunk, or failure. -/
def State.afterPoll (s : State) (ok : Bool) (payloads : List (List Byte)) : State :=
  if ok then s.nextChunk payloads else s.finish (.done false)

section
variable {s : State} {k : Nat} {payloads : List (List Byte)} {ok : Bool} {b b' : Bus}

/-- A probe within the attempt ceiling ends the poll where it is ACKed, or where it is the last. -/
theorem runsTo_probe (hk : k ≤ s.cfg.probeMax) (h : b.probe s.cfg.eepromAddr = some (ok, b')) :
    RunsTo ((s.released b).startProbe k payloads)
      (if ok then (s.released b').nextChunk payloads
        else if k < s.cfg.probeMax then (s.released b').goOn (pause (k + 1) payloads)
        else (s.released b').finish (.done false)) := by
  have htxn : b.txn (probeTxn s.cfg.eepromAddr) = some (ok, [], b') := by rw [Bus.txn_probeTxn, h]; rfl
  rw [State.startProbe, State.released_cfg, if_pos hk]
  exact runsTo_txn (s := s.released b) htxn

/-- The Delay before a probe. -/
theorem runsTo_pause :
    RunsTo ((s.released b).goOn (pause k payloads)) ((s.released (b.put .delay)).startProbe k payloads) :=
  runsTo_settle (q := pause k payloads) nofun rfl

/-- Where the probes from `k` to `P_PROBE_MAX` are the attempts left, the machine polls as the pseudocode does. -/
theorem runsTo_readyPoll {attempts : Nat} (hk : k + attempts = s.cfg.probeMax + 1)
    (h : Bus.readyPoll s.cfg.eepromAddr attempts b = some (ok, b')) :
    RunsTo ((s.released b).startProbe k payloads) ((s.released b').afterPoll ok payloads) := by
  induction attempts generalizing k b with
  | zero =>
    cases h
    rw [State.startProbe, State.released_cfg, if_neg (by omega)]
    exact .refl _
  | succ attempts ih =>
    have hceiling : k ≤ s.cfg.probeMax := by omega
    rw [Bus.readyPoll] at h
    split at h
    · cases h
    · next b₁ hprobe =>
      cases h
      exact runsTo_probe hceiling hprobe
    · next b₁ hprobe =>
      have hnack := runsTo_probe (payloads := payloads) hceiling hprobe
      by_cases hlast : attempts = 0
      · subst hlast
        cases h
        rwa [if_neg nofun, if_neg (by omega)] at hnack
      · rw [if_neg hlast] at h
        rw [if_neg nofun, if_pos (by omega)] at hnack
        exact hnack.trans (runsTo_pause.trans (ih (by omega) h))

end

/-- One chunk and its ready-polling: they fail, and the operation ends with failure, or the chunks left are what is left
of the operation. -/
theorem runsTo_chunk {s : State} {p : List Byte} {rest : List (List Byte)} {ok : Bool} {b : Bus}
    (h : Bus.devWrite s.cfg.eepromAddr s.cfg.probeMax (p :: rest) s.bus = some (ok, b)) :
    (ok = false ∧ RunsTo (s.nextChunk (p :: rest)) ((s.released b).finish (.done false))) ∨
    ∃ b₁, RunsTo (s.nextChunk (p :: rest)) ((s.released b₁).nextChunk rest) ∧
      Bus.devWrite s.cfg.eepromAddr s.cfg.probeMax rest b₁ = some (ok, b) := by
  rw [Bus.devWrite] at h
  split at h
  · cases h
  · next b₁ hwrite =>
    cases h
    exact .inl ⟨rfl, runsTo_writeTxn hwrite⟩
  · next b₁ hwrite =>
    have hpoll : ∀ {ok' b'}, Bus.readyPoll s.cfg.eepromAddr s.cfg.probeMax b₁ = some (ok', b') →
        RunsTo (s.nextChunk (p :: rest)) ((s.released b').afterPoll ok' rest) := fun hpoll =>
      (runsTo_writeTxn hwrite).trans (runsTo_readyPoll (Nat.add_comm 1 _) hpoll)
    split at h
    · cases h
    · next b₂ hfail =>
      cases h
      exact .inl ⟨rfl, hpoll hfail⟩
    · next b₂ hready => exact .inr ⟨b₂, hpoll hready, h⟩

/-- The chunks of a DEV_WRITE, of which there is one at least. -/
theorem runsTo_devWrite {s : State} {p : List Byte} {rest : List (List Byte)} {ok : Bool} {b : Bus}
    (h : Bus.devWrite s.cfg.eepromAddr s.cfg.probeMax (p :: rest) s.bus = some (ok, b)) :
    RunsTo (s.nextChunk (p :: rest)) ((s.released b).finish (.done ok)) := by
  induction rest generalizing s p with
  | nil =>
    obtain ⟨rfl, hrun⟩ | ⟨b₁, hrun, hrest⟩ := runsTo_chunk h
    · exact hrun
    · cases hrest
      exact hrun
  | cons p' rest ih =>
    obtain ⟨rfl, hrun⟩ | ⟨b₁, hrun, hrest⟩ := runsTo_chunk h
    · exact hrun
    · exact hrun.trans (ih (s := s.released b₁) hrest)

/-! ### The statements -/

/-- Settles O38: M_WRITE is one write transaction. -/
theorem masterWriteRunsItsPseudocode : Obligations.MasterWriteRunsItsPseudocode := by
  intro a data s ok b hctx hne hlen h
  have hexec : exec (.mWrite a data) s = masterStep (openTxn .write (writeTxn (normAddr a) data)) s := by
    rw [exec, execMWrite, whenAdmitted_of .fg false s _ hctx nofun, (payloadFits_iff data).mpr hlen]
    exact if_neg (List.length_eq_zero_iff.not.mpr hne)
  exact write_runs hctx hexec (runsTo_writeTxn h)

/-- Settles O39: M_READ is one transaction. -/
theorem masterReadRunsItsPseudocode : Obligations.MasterReadRunsItsPseudocode := by
  intro a n s ok buf b hctx hn h
  have hexec : exec (.mRead a n) s = masterStep (openTxn .read (readTxn (normAddr a) n.toNat)) s := by
    rw [exec, execMRead, whenAdmitted_of .fg false s _ hctx nofun]
    exact if_neg (BitVec.toNat_ne.mp hn)
  exact read_runs hctx hexec ((Bus.txn_readTxn ..).trans h)

/-- Settles O40: M_WRITE_READ is one transaction, with a repeated start. -/
theorem masterWriteReadRunsItsPseudocode : Obligations.MasterWriteReadRunsItsPseudocode := by
  intro a tx n s ok buf b hctx hne hlen hn h
  have hexec : exec (.mWriteRead a tx n) s =
      masterStep (openTxn .read (writeReadTxn (normAddr a) tx n.toNat)) s := by
    rw [exec, execMWriteRead, whenAdmitted_of .fg false s _ hctx nofun, (payloadFits_iff tx).mpr hlen]
    exact if_neg (not_or.mpr ⟨List.length_eq_zero_iff.not.mpr hne, BitVec.toNat_ne.mp hn⟩)
  exact read_runs hctx hexec ((Bus.txn_writeReadTxn ..).trans h)

/-- Settles O42: DEV_READ is the transaction of an M_WRITE_READ that writes the device address. -/
theorem devReadRunsItsPseudocode : Obligations.DevReadRunsItsPseudocode := by
  intro mem n s ok buf b hctx hn h
  have hexec : exec (.devRead mem n) s =
      masterStep (openTxn .read (writeReadTxn s.cfg.eepromAddr (addressPrefix mem) n.toNat)) s := by
    rw [exec, execDevRead, whenAdmitted_of .fg false s _ hctx nofun]
    exact if_neg (BitVec.toNat_ne.mp hn)
  exact read_runs hctx hexec ((Bus.txn_writeReadTxn ..).trans h)

/-- Settles O41: DEV_WRITE is its chunks, and a payload with a byte has a first one. -/
theorem devWriteRunsItsPseudocode : Obligations.DevWriteRunsItsPseudocode := by
  intro mem data s ok b hctx hne hlen h
  obtain ⟨p, rest, hpayloads⟩ : ∃ p rest, chunkPayloads s.cfg.pageSize mem data = p :: rest := by
    obtain ⟨x, xs, rfl⟩ := List.exists_cons_of_ne_nil hne
    exact ⟨_, _, rfl⟩
  have hexec : exec (.devWrite mem data) s =
      masterStep (openTxn (.chunk rest) (writeTxn s.cfg.eepromAddr p)) s := by
    rw [exec, execDevWrite, whenAdmitted_of .fg false s _ hctx nofun, (payloadFits_iff data).mpr hlen, hpayloads]
    exact if_neg (List.length_eq_zero_iff.not.mpr hne)
  refine write_runs hctx hexec (runsTo_devWrite (p := p) (rest := rest) ?_)
  rw [← hpayloads]
  exact h

end Sys2Proof.Machine

/-! PROOFS. The step bounds of the master operations (rule R272): what a position costs, that every atomic step pays one
entry of the call log for it, and that an operation begins within the bound of its operands. -/

namespace Sys2Proof.Machine

/-! ### The cost of a position -/

theorem actsCost_cons (a : Act) (acts : List Act) : actsCost (a :: acts) = actCost a + actsCost acts :=
  List.sum_cons

theorem actsCost_append (acts acts' : List Act) : actsCost (acts ++ acts') = actsCost acts + actsCost acts' := by
  simp [actsCost]

theorem actsCost_writeActs (bytes : List Byte) : actsCost (writeActs bytes) = 55 * bytes.length := by
  simp [actsCost, writeActs, Function.comp_def, actCost, Nat.mul_comm]

theorem actsCost_readActs (n : Nat) : actsCost (readActs n) = 48 * n := by
  simp [actsCost, readActs, Function.comp_def, actCost, Nat.mul_comm]

/-- An entry costs its primitives. -/
theorem actPrims_length (a : Act) : (actPrims a).length = actCost a := by
  cases a <;> rfl

section
variable (p : Params) (q : Seq)

theorem openTxn_bound (job : Job) (acts : List Act) :
    (openTxn job acts).bound p = 5 + (actsCost acts + 11) + jobCost p job :=
  rfl

theorem closeTxn_bound : (closeTxn q).bound p = 11 + jobCost p q.job := rfl

theorem pause_bound (k : Nat) (payloads : List (List Byte)) :
    (pause k payloads).bound p = 80 + jobCost p (.probe k payloads) := rfl

/-- The rest of a transaction costs its entries and its close. -/
theorem nextAct_bound : (nextAct q).bound p = actsCost q.acts + 11 + jobCost p q.job := by
  cases hacts : q.acts with
  | nil => rw [nextAct_nil hacts, closeTxn_bound]; simp [actsCost]
  | cons a acts =>
    rw [nextAct_cons hacts, actsCost_cons, ← actPrims_length]
    simp only [Seq.bound, stageCost]
    omega

end

theorem actsCost_writeTxn (a : BusAddr) (data : List Byte) :
    actsCost (writeTxn a data) = 8 + 55 * (data.length + 1) := by
  rw [writeTxn, actsCost_cons, actsCost_writeActs]
  rfl

theorem actsCost_readTxn (a : BusAddr) (n : Nat) : actsCost (readTxn a n) = 8 + (55 + 48 * n) := by
  rw [readTxn, actsCost_cons, actsCost_cons, actsCost_readActs]
  rfl

theorem actsCost_writeReadTxn (a : BusAddr) (tx : List Byte) (n : Nat) :
    actsCost (writeReadTxn a tx n) = 8 + 55 * (tx.length + 1) + (8 + (55 + 48 * n)) := by
  rw [writeReadTxn, actsCost_append, actsCost_cons, actsCost_writeActs]
  exact congrArg _ (actsCost_readTxn a n)

theorem actsCost_probeTxn (a : BusAddr) : actsCost (probeTxn a) = 63 := rfl

theorem payloadsCost_cons (p : Params) (data : List Byte) (rest : List (List Byte)) :
    payloadsCost p (data :: rest) = 24 + 55 * (data.length + 1) + pollCost p.probeMax + payloadsCost p rest :=
  List.sum_cons

/-! ### What is left to do -/

/-- The master operation running in `s`, if one is, ends within `n` atomic steps by its bound. -/
def State.Within (s : State) (n : Nat) : Prop := ∀ q, s.master.seq = some q → q.bound s.cfg ≤ n

theorem State.goOn_within {s : State} {q : Seq} {n : Nat} (h : q.bound s.cfg ≤ n) : (s.goOn q).Within n := by
  rintro _ ⟨⟩
  exact h

theorem State.finish_within (s : State) (r : Return) (n : Nat) : (s.finish r).Within n := by
  intro q hq
  rw [State.finish_seq] at hq
  cases hq

section
variable (s : State) (q : Seq) (payloads : List (List Byte))

theorem State.startProbe_within {n k : Nat} (h : k ≤ s.cfg.probeMax → 79 + jobCost s.cfg (.probe k payloads) ≤ n) :
    (s.startProbe k payloads).Within n := by
  unfold State.startProbe
  split
  · next hk =>
    refine State.goOn_within ?_
    rw [openTxn_bound, actsCost_probeTxn]
    exact h hk
  · exact State.finish_within _ _ _

theorem State.nextChunk_within : (s.nextChunk payloads).Within (payloadsCost s.cfg payloads) := by
  cases payloads with
  | nil => exact State.finish_within _ _ _
  | cons data rest =>
    refine State.goOn_within ?_
    rw [openTxn_bound, actsCost_writeTxn, payloadsCost_cons, jobCost]
    omega

/-- A transaction is followed by no more than its job still costs. -/
theorem State.afterTxn_within : (s.afterTxn q).Within (jobCost s.cfg q.job) := by
  obtain ⟨todo, stage, acts, ok, rx, buf, job⟩ := q
  cases job with
  | write => exact State.finish_within _ _ _
  | read => cases ok <;> exact State.finish_within _ _ _
  | chunk payloads =>
    cases ok with
    | false => exact State.finish_within _ _ _
    | true =>
      refine s.startProbe_within payloads fun hk => ?_
      simp only [jobCost, pollCost]
      omega
  | probe k payloads =>
    cases ok with
    | true => exact fun q' hq' => (s.nextChunk_within payloads q' hq').trans (Nat.le_add_left _ _)
    | false =>
      simp only [State.afterTxn, Bool.false_eq_true, if_false]
      split
      · refine State.goOn_within ?_
        rw [pause_bound]
        simp only [jobCost]
        omega
      · exact State.finish_within _ _ _

/-- What follows a stage costs no more than the position did at its end. -/
theorem State.settle_within : (s.settle q).Within (q.bound s.cfg) := by
  obtain ⟨todo, stage, acts, ok, rx, buf, job⟩ := q
  have hnext : ∀ q', q'.acts = acts → q'.job = job →
      (nextAct q').bound s.cfg ≤ todo.length + (actsCost acts + 11) + jobCost s.cfg job := by
    rintro q' rfl rfl
    rw [nextAct_bound]
    omega
  have hclose : ∀ q', q'.job = job →
      (closeTxn q').bound s.cfg ≤ todo.length + (actsCost acts + 11) + jobCost s.cfg job := by
    rintro q' rfl
    rw [closeTxn_bound]
    omega
  cases stage with
  | opening => exact State.goOn_within (hnext _ rfl rfl)
  | acting a =>
    cases a with
    | start => exact State.goOn_within (hnext _ rfl rfl)
    | read last => exact State.goOn_within (hnext _ rfl rfl)
    | write x =>
      cases ok with
      | true => exact State.goOn_within (hnext _ rfl rfl)
      | false => exact State.goOn_within (hclose _ rfl)
  | closing => exact fun q' hq' => (s.afterTxn_within _ q' hq').trans (Nat.le_add_left _ _)
  | pausing k payloads =>
    refine s.startProbe_within payloads fun _ => ?_
    simp only [Seq.bound, stageCost]
    omega

end

/-! ### One atomic step -/

section
variable {q : Seq} {s t : State} (hne : q.todo ≠ []) (h : masterStep q s = .next t)
include hne h

/-- An atomic step performs the next primitive, and goes on or settles what follows its stage. -/
theorem masterStep_runPrim : ∃ p rest q' s', q.todo = p :: rest ∧
    runPrim p { q with todo := rest } s = .ok (q', s') ∧ t = if rest = [] then s'.settle q' else s'.goOn q' := by
  obtain ⟨p, rest, htodo⟩ := List.exists_cons_of_ne_nil hne
  obtain ⟨f, -, hfault⟩ | ⟨q', s', hrun, hnext⟩ := masterStep_cons (s := s) htodo
  · cases hfault.symm.trans h
  · cases hnext.symm.trans h
    exact ⟨p, rest, q', s', htodo, hrun, rfl⟩

theorem masterStep_calllog : ∃ e, t.log.calllog = s.log.calllog ++ [e] := by
  obtain ⟨p, rest, q', s', -, hrun, rfl⟩ := masterStep_runPrim hne h
  obtain ⟨-, -, e, he⟩ := runPrim_frame hrun
  refine ⟨e, he ▸ ?_⟩
  split
  · exact s'.settle_calllog q'
  · rfl

/-- An atomic step pays for itself: what is left costs one less. -/
theorem masterStep_within {n : Nat} (hn : q.bound s.cfg ≤ n + 1) : t.Within n := by
  obtain ⟨p, rest, q', s', htodo, hrun, rfl⟩ := masterStep_runPrim hne h
  have hcfg : s'.cfg = s.cfg := (runPrim_keeps hrun).cfg
  obtain ⟨hq', -, -⟩ := runPrim_frame hrun
  have hbound : q'.bound s'.cfg + 1 = q.bound s.cfg := by
    rw [hq', hcfg]
    simp only [Seq.bound, stageCost, htodo, List.length_cons]
    omega
  split
  · exact fun q₁ hq₁ => (s'.settle_within q' q₁ hq₁).trans (by omega)
  · exact State.goOn_within (by omega)

end

/-! ### How a master operation begins -/

/-- Everything a master operation can answer: it ends with no transaction, a failed read with a draw, or takes the first
step of a transaction, after which it ends within the bound of its operands. -/
inductive BeginsInBound (i : Instr) (s : State) : State → Prop
  | ends (drawn : Nat) (r : Return) : BeginsInBound i s ({ s with env := { s.env with drawn } }.finish r)
  | opens {t : State} (job : Job) (acts : List Act) (hcost : (openTxn job acts).bound s.cfg ≤ opBound s.cfg i)
      (hstep : masterStep (openTxn job acts) s = .next t) : BeginsInBound i s t

theorem finish_beginsInBound {i : Instr} {s : State} (r : Return) : Answers (BeginsInBound i s) (.next (s.finish r)) :=
  .next (.ends s.env.drawn r)

theorem failRead_beginsInBound {i : Instr} {s : State} : Answers (BeginsInBound i s) (.next (s.finishRead false [])) :=
  .next (.ends (s.env.drawn + 1) _)

theorem openTxn_beginsInBound {i : Instr} {s : State} {job : Job} {acts : List Act}
    (h : 5 + (actsCost acts + 11) + jobCost s.cfg job ≤ opBound s.cfg i) :
    Answers (BeginsInBound i s) (masterStep (openTxn job acts) s) :=
  fun _ hstep => .opens job acts h hstep

/-- A chunk's payload is its two address bytes and at most as many bytes as the chunk takes. -/
theorem chunkPayload_length_le (data : List Byte) (c : Chunk) : (chunkPayload data c).length ≤ c.n + 2 := by
  rw [chunkPayload, List.length_append, List.length_take, show (addressPrefix c.m).length = 2 from rfl]
  omega

/-- The chunks of a DEV_WRITE cost no more than its bound. -/
theorem payloadsCost_chunkPayloads_le (p : Params) (mem : DevAddr) (data : List Byte) :
    payloadsCost p (chunkPayloads p.pageSize mem data) ≤ opBound p (.devWrite mem data) := by
  rw [payloadsCost, chunkPayloads, List.map_map, opBound]
  refine List.sum_le_sum fun c _ => ?_
  have hlen := chunkPayload_length_le data c
  simp only [Function.comp_apply, pollCost]
  omega

/-- Each branch of a master operation's meaning, past its admission. -/
theorem exec_beginsInBound {i : Instr} {s : State} (hi : isMaster i = true) (hctx : s.ctx = .fg) :
    Answers (BeginsInBound i s) (exec i s) := by
  cases i <;> simp only [isMaster, Bool.false_eq_true] at hi
  case mWrite a data =>
    rw [exec, execMWrite, whenAdmitted_of .fg false s _ hctx nofun]
    refine .ite (fun _ => .refused) fun _ => .ite (fun _ => finish_beginsInBound _) fun _ => openTxn_beginsInBound ?_
    rw [actsCost_writeTxn, opBound, jobCost]
    omega
  case mRead a n =>
    rw [exec, execMRead, whenAdmitted_of .fg false s _ hctx nofun]
    refine .ite (fun _ => failRead_beginsInBound) fun _ => openTxn_beginsInBound ?_
    rw [actsCost_readTxn, opBound, jobCost]
    omega
  case mWriteRead a tx n =>
    rw [exec, execMWriteRead, whenAdmitted_of .fg false s _ hctx nofun]
    refine .ite (fun _ => .refused) fun _ => .ite (fun _ => failRead_beginsInBound) fun _ => openTxn_beginsInBound ?_
    rw [actsCost_writeReadTxn, opBound, jobCost]
    omega
  case devWrite mem data =>
    rw [exec, execDevWrite, whenAdmitted_of .fg false s _ hctx nofun]
    refine .ite (fun _ => .refused) fun _ => .ite (fun _ => finish_beginsInBound _) fun _ => ?_
    have hcost := payloadsCost_chunkPayloads_le s.cfg mem data
    cases hpayloads : chunkPayloads s.cfg.pageSize mem data with
    | nil => exact finish_beginsInBound _
    | cons p rest =>
      refine openTxn_beginsInBound ?_
      rw [hpayloads, payloadsCost_cons] at hcost
      rw [actsCost_writeTxn, jobCost]
      omega
  case devRead mem n =>
    rw [exec, execDevRead, whenAdmitted_of .fg false s _ hctx nofun]
    refine .ite (fun _ => failRead_beginsInBound) fun _ => openTxn_beginsInBound ?_
    rw [actsCost_writeReadTxn, opBound, jobCost, show (addressPrefix mem).length = 2 from rfl]
    omega

/-! ### A run to the end -/

theorem runMaster_of_seq_none {s : State} (n : Nat) (h : s.master.seq = none) : runMaster n s = .next s := by
  cases n with
  | zero => rfl
  | succ n => rw [runMaster, h]

/-- Whether a master operation is running, as the advance of the foreground position at its end. -/
def State.unretired (s : State) : Nat := if s.master.seq.isSome then 1 else 0

/-- A step of the master that ends the operation advances the position, and one that goes on does not (rule R36). -/
theorem masterStep_fgPc {q : Seq} {s t : State} (hctx : s.ctx = .fg) (h : masterStep q s = .next t) :
    t.fgPc + t.unretired = s.fgPc + 1 := by
  obtain ⟨hkeep, hsome⟩ | ⟨v, hkeep, hnone, rfl⟩ := masterStep_goesOnOrEnds h
  · rw [State.unretired, if_pos hsome, hkeep.fgPc]
  · simp [State.unretired, hnone, hkeep.ctx, hctx, hkeep.fgPc]

/-- By the invariant no step of it stops, so a master operation that ends within `n` steps by its bound does. -/
theorem runMaster_ends {n : Nat} {s : State} (hinv : s.Inv) (hwithin : s.Within n) :
    ∃ u, runMaster n s = .next u ∧ u.master.seq = none ∧ u.fgPc = s.fgPc + s.unretired ∧
      u.log.calllog.length ≤ s.log.calllog.length + n := by
  induction n generalizing s with
  | zero =>
    cases hseq : s.master.seq with
    | none => exact ⟨s, rfl, hseq, by simp [State.unretired, hseq], Nat.le_refl _⟩
    | some q =>
      have hpos := List.length_pos_iff.mpr (hinv.seqOk q hseq).1
      have hzero := hwithin q hseq
      rw [Seq.bound] at hzero
      omega
  | succ n ih =>
    cases hseq : s.master.seq with
    | none =>
      exact ⟨s, runMaster_of_seq_none _ hseq, hseq, by simp [State.unretired, hseq], Nat.le_add_right _ _⟩
    | some q =>
      have hok := hinv.seqOk q hseq
      obtain ⟨hsound, -, hctx⟩ := s.inv_iff.mp hinv
      obtain ⟨t, hstep⟩ := masterStep_next hok hinv.snapOwned
      obtain ⟨u, hrun, hnone, hpc, hlen⟩ :=
        ih (masterStep_inv hsound hctx hok hstep) (masterStep_within hok.1 hstep (hwithin q hseq))
      obtain ⟨e, he⟩ := masterStep_calllog hok.1 hstep
      have hpc' := masterStep_fgPc hctx hstep
      rw [he, List.length_append, List.length_singleton] at hlen
      refine ⟨u, ?_, hnone, ?_, by omega⟩
      · rw [runMaster, hseq]
        dsimp only
        rw [hstep]
        exact hrun
      · rw [hpc, hpc', State.unretired, hseq]
        rfl

/-! ### The statements -/

/-- Settles O44: an atomic step performs one primitive, and pays for it. -/
theorem masterStepsComeNearerTheEnd : Obligations.MasterStepsComeNearerTheEnd := by
  intro q s t hne h
  refine ⟨masterStep_calllog hne h, fun q' hq' => ?_⟩
  have hpos := List.length_pos_iff.mpr hne
  have hwithin := masterStep_within (n := q.bound s.cfg - 1) hne h (by omega) q' hq'
  have hbound : q.todo.length ≤ q.bound s.cfg := by rw [Seq.bound]; omega
  omega

/-- Settles O43: the first step of the operation pays one entry of its bound, and by the invariant the rest of it is run
to the end. -/
theorem masterOperationsEndInBound : Obligations.MasterOperationsEndInBound := by
  intro i s hinv hseq hi hwf
  obtain ⟨hsound, -, hctx⟩ := s.inv_iff.mp hinv
  obtain ⟨t, hexec⟩ := exec_next s hwf
  cases exec_beginsInBound hi hctx t hexec with
  | ends drawn r =>
    refine ⟨_, _, hexec, runMaster_of_seq_none _ (State.finish_seq _ r), State.finish_seq _ r, ?_, ?_⟩
    · rw [State.finish_of_fg (s := { s with env := { s.env with drawn } }) hctx]
    · rw [State.finish_calllog]
      exact Nat.le_add_right _ _
  | opens job acts hcost hstep =>
    have hok : (openTxn job acts).Ok s.master.owns := hinv.atRest hseq ▸ openTxn_ok job acts
    have hrest : (openTxn job acts).bound s.cfg ≤ (opBound s.cfg i - 1) + 1 := by omega
    have hpos : 1 ≤ opBound s.cfg i := by rw [openTxn_bound] at hcost; omega
    obtain ⟨u, hrun, hnone, hpc, hlen⟩ :=
      runMaster_ends (masterStep_inv hsound hctx hok hstep) (masterStep_within hok.1 hstep hrest)
    obtain ⟨e, he⟩ := masterStep_calllog hok.1 hstep
    rw [he, List.length_append, List.length_singleton] at hlen
    refine ⟨t, u, hexec, ?_, hnone, hpc.trans (masterStep_fgPc hctx hstep), by omega⟩
    rw [← Nat.sub_add_cancel hpos, runMaster_add _ 1 t u hrun, runMaster_of_seq_none 1 hnone]

/-! ### What a master operation leaves alone (rule R271) -/

/-- The engine, the error log, and what belongs to the interrupt context are in `t` as in `s`. -/
def LeavesEngine (s t : State) : Prop :=
  t.frame = s.frame ∧ t.ring = s.ring ∧ t.resp = s.resp ∧ t.log.errlog = s.log.errlog ∧ t.life = s.life ∧
    t.cb = s.cb ∧ t.irqPc = s.irqPc ∧ t.env.irqStream = s.env.irqStream

/-- A master operation writes the lines, the master, its position, and the rest of the log and of the inputs. -/
theorem leavesEngine_write (s : State) (lines : Lines) (master : Master) (fgPc : Nat) (calllog : List Event)
    (faults : List FaultMark) (returns : List Return) (sda : List Bool) (drawn : Nat) :
    LeavesEngine s { s with
      lines, master, fgPc
      log := { s.log with calllog, faults, returns }
      env := { s.env with sda, drawn } } :=
  ⟨rfl, rfl, rfl, rfl, rfl, rfl, rfl, rfl⟩

theorem State.goOn_leavesEngine (s : State) (q : Seq) : LeavesEngine s (s.goOn q) :=
  leavesEngine_write s _ _ _ _ _ _ _ _

theorem State.finish_leavesEngine {s : State} (hctx : s.ctx = .fg) (r : Return) : LeavesEngine s (s.finish r) := by
  rw [State.finish_of_fg hctx]
  exact leavesEngine_write s _ _ _ _ _ _ _ _

theorem State.settle_leavesEngine {s : State} (hctx : s.ctx = .fg) (q : Seq) : LeavesEngine s (s.settle q) := by
  obtain ⟨q', heq, -⟩ | ⟨r, heq⟩ | ⟨r, heq⟩ := s.settle_cases q <;> rw [heq]
  · exact s.goOn_leavesEngine q'
  · exact State.finish_leavesEngine hctx r
  · exact State.finish_leavesEngine (s := s.countDraw) hctx r

theorem runPrim_leavesEngine {p : Prim} {q q' : Seq} {s s' : State} (h : runPrim p q s = .ok (q', s')) :
    LeavesEngine s s' := by
  obtain ⟨-, hs', -⟩ := runPrim_frame h
  rw [hs']
  exact leavesEngine_write s _ _ _ _ _ _ _ _

theorem LeavesEngine.trans {s t u : State} (h : LeavesEngine s t) (h' : LeavesEngine t u) : LeavesEngine s u := by
  obtain ⟨hframe, hring, hresp, herr, hlife, hcb, hpc, hstream⟩ := h
  rwa [LeavesEngine, hframe, hring, hresp, herr, hlife, hcb, hpc, hstream] at h'

/-- An atomic step is a primitive and what follows it, or, with no primitive left, what follows alone. -/
theorem masterStep_leavesEngine {q : Seq} {s t : State} (hctx : s.ctx = .fg) (h : masterStep q s = .next t) :
    LeavesEngine s t := by
  by_cases htodo : q.todo = []
  · rw [masterStep, htodo] at h
    cases h
    exact State.settle_leavesEngine hctx q
  · obtain ⟨p, rest, q', s', -, hrun, rfl⟩ := masterStep_runPrim htodo h
    have hctx' : s'.ctx = .fg := (runPrim_keeps hrun).ctx.trans hctx
    refine (runPrim_leavesEngine hrun).trans ?_
    split
    · exact State.settle_leavesEngine hctx' q'
    · exact s'.goOn_leavesEngine q'

/-- Settles O45: a master operation is issued with its end or its first atomic step, and goes on in atomic steps. -/
theorem masterStepsLeaveTheEngine : Obligations.MasterStepsLeaveTheEngine := by
  refine ⟨fun q s t hctx h => masterStep_leavesEngine hctx h, fun i s t hi hctx h => ?_⟩
  cases exec_beginsInBound hi hctx t h with
  | ends drawn r => exact State.finish_leavesEngine (s := { s with env := { s.env with drawn } }) hctx r
  | opens job acts _ hstep => exact masterStep_leavesEngine hctx hstep

end Sys2Proof.Machine

/-! PROOFS. What the master makes of its operands: the address, the chunks of a paged write, and a zero length (rules
R260, R261, R267). -/

namespace Sys2Proof.Machine

/-! ### Addresses -/

/-- The address byte is the address, with the direction as its last bit (rule R114). -/
theorem addressByte_toNat (a : BusAddr) (dir : Bool) : (addressByte a dir).toNat = 2 * a.toNat + dir.toNat := by
  have hdir : (if dir then 1 else 0 : Byte).toNat = dir.toNat := by cases dir <;> rfl
  have hshift : (a.zeroExtend 8 <<< 1).toNat = 2 ^ 1 * a.toNat := by
    have ha := a.isLt
    rw [BitVec.toNat_shiftLeft, BitVec.toNat_setWidth, Nat.shiftLeft_eq]
    omega
  rw [addressByte, BitVec.toNat_or, hshift, hdir, ← Nat.two_pow_add_eq_or_of_lt (Bool.toNat_lt dir)]

theorem normAddr_toNat (a : Byte) : (normAddr a).toNat = if 0x7F < a.toNat then a.toNat / 2 else a.toNat := by
  have ha := a.isLt
  rw [normAddr, BitVec.truncate_eq_setWidth, BitVec.toNat_setWidth]
  split
  · rw [BitVec.toNat_ushiftRight, Nat.shiftRight_eq_div_pow]
    omega
  · omega

/-- Settles O34. -/
theorem normAndAddressByte : Obligations.NormAndAddressByte :=
  ⟨normAddr_toNat, fun a => ⟨addressByte_toNat a false, addressByte_toNat a true⟩⟩

/-! ### Chunks -/

/-- The chunk of a payload of `len` bytes that the loop of Chunks takes at `off` (rule R267). -/
def chunkAt (pageSize : Nat) (mem : DevAddr) (len off : Nat) : Chunk :=
  let m := BitVec.ofNat 16 (mem.toNat + off)
  { m, off, n := min (pageSize - m.toNat % pageSize) (len - off) }

section
variable {pageSize : Nat} {mem : DevAddr} {len off fuel : Nat}

theorem chunksFrom_of_lt (h : off < len) :
    chunksFrom pageSize mem len (fuel + 1) off = chunkAt pageSize mem len off ::
      chunksFrom pageSize mem len fuel (off + (chunkAt pageSize mem len off).n) :=
  if_pos h

theorem chunksFrom_of_le (h : len ≤ off) : chunksFrom pageSize mem len fuel off = [] := by
  cases fuel with
  | zero => rfl
  | succ fuel => exact if_neg h.not_gt

theorem chunkAt_m : (chunkAt pageSize mem len off).m.toNat = (mem.toNat + off) % 2 ^ 16 :=
  BitVec.toNat_ofNat ..

theorem chunkAt_n :
    (chunkAt pageSize mem len off).n = min (pageSize - (mem.toNat + off) % 2 ^ 16 % pageSize) (len - off) := by
  rw [← chunkAt_m (pageSize := pageSize) (len := len)]
  rfl

theorem chunkAt_in_payload (h : off < len) : off + (chunkAt pageSize mem len off).n ≤ len := by
  rw [chunkAt_n]
  omega

/-- Every chunk is that at its place in the payload. -/
theorem mem_chunksFrom {c : Chunk} (h : c ∈ chunksFrom pageSize mem len fuel off) :
    ∃ o < len, c = chunkAt pageSize mem len o := by
  induction fuel generalizing off with
  | zero => cases h
  | succ fuel ih =>
    by_cases hlt : off < len
    · rw [chunksFrom_of_lt hlt, List.mem_cons] at h
      exact h.elim (fun h => ⟨off, hlt, h⟩) ih
    · rw [chunksFrom_of_le (Nat.le_of_not_lt hlt)] at h
      cases h

variable (hpage : 1 ≤ pageSize)
include hpage

theorem chunkAt_n_pos (h : off < len) : 1 ≤ (chunkAt pageSize mem len off).n := by
  have hmod := Nat.mod_lt ((mem.toNat + off) % 2 ^ 16) hpage
  rw [chunkAt_n]
  omega

theorem chunkAt_fits_page :
    (chunkAt pageSize mem len off).m.toNat % pageSize + (chunkAt pageSize mem len off).n ≤ pageSize := by
  have hmod := Nat.mod_lt ((mem.toNat + off) % 2 ^ 16) hpage
  rw [chunkAt_m, chunkAt_n]
  omega

/-- A chunk that does not end the payload ends its page. -/
theorem chunkAt_fills_page (h : off + (chunkAt pageSize mem len off).n < len) :
    (chunkAt pageSize mem len off).m.toNat % pageSize + (chunkAt pageSize mem len off).n = pageSize := by
  have hmod := Nat.mod_lt ((mem.toNat + off) % 2 ^ 16) hpage
  rw [chunkAt_n] at h
  rw [chunkAt_m, chunkAt_n]
  omega

/-- Where the page size divides the address space, the chunk after it then starts on a page boundary. -/
theorem chunkAt_next_starts_page (hdvd : pageSize ∣ 2 ^ 16) (h : off + (chunkAt pageSize mem len off).n < len) :
    (mem.toNat + (off + (chunkAt pageSize mem len off).n)) % pageSize = 0 := by
  have hfills := chunkAt_fills_page hpage h
  rw [chunkAt_m, Nat.mod_mod_of_dvd _ hdvd] at hfills
  rw [← Nat.add_assoc, Nat.add_mod_eq_add_mod_right _ (Nat.mod_mod _ _).symm, hfills, Nat.mod_self]

/-- The chunks from `off` on, put together, are the payload from `off` on. -/
theorem chunksFrom_flatMap (data : List Byte) (hfuel : data.length - off ≤ fuel) :
    (chunksFrom pageSize mem data.length fuel off).flatMap (fun c => (data.drop c.off).take c.n) = data.drop off := by
  induction fuel generalizing off with
  | zero => rw [List.drop_eq_nil_of_le (by omega)]; rfl
  | succ fuel ih =>
    by_cases hlt : off < data.length
    · have hpos := chunkAt_n_pos (mem := mem) hpage hlt
      rw [chunksFrom_of_lt hlt, List.flatMap_cons, ih (by omega), ← List.drop_drop]
      exact List.take_append_drop _ _
    · rw [chunksFrom_of_le (Nat.le_of_not_lt hlt), List.drop_eq_nil_of_le (Nat.le_of_not_lt hlt)]
      rfl

/-- A chunk that is followed by another does not end the payload. -/
theorem chunksFrom_dropLast_fills_page {c : Chunk} (h : c ∈ (chunksFrom pageSize mem len fuel off).dropLast) :
    c.m.toNat % pageSize + c.n = pageSize := by
  induction fuel generalizing off with
  | zero => cases h
  | succ fuel ih =>
    by_cases hlt : off < len
    · rw [chunksFrom_of_lt hlt] at h
      cases hrest : chunksFrom pageSize mem len fuel (off + (chunkAt pageSize mem len off).n) with
      | nil => rw [hrest] at h; cases h
      | cons d ds =>
        have hnext : off + (chunkAt pageSize mem len off).n < len := by
          by_contra hend
          rw [chunksFrom_of_le (Nat.le_of_not_lt hend)] at hrest
          cases hrest
        rw [hrest, List.dropLast_cons_cons, List.mem_cons, ← hrest] at h
        obtain rfl | h := h
        · exact chunkAt_fills_page hpage hnext
        · exact ih h
    · rw [chunksFrom_of_le (Nat.le_of_not_lt hlt)] at h
      cases h

/-- From a page boundary on, every chunk starts on one. -/
theorem chunksFrom_starts_page {c : Chunk} (hdvd : pageSize ∣ 2 ^ 16)
    (hstart : off < len → (mem.toNat + off) % pageSize = 0) (h : c ∈ chunksFrom pageSize mem len fuel off) :
    c.m.toNat % pageSize = 0 := by
  induction fuel generalizing off with
  | zero => cases h
  | succ fuel ih =>
    by_cases hlt : off < len
    · rw [chunksFrom_of_lt hlt, List.mem_cons] at h
      obtain rfl | h := h
      · rw [chunkAt_m, Nat.mod_mod_of_dvd _ hdvd, hstart hlt]
      · exact ih (chunkAt_next_starts_page hpage hdvd) h
    · rw [chunksFrom_of_le (Nat.le_of_not_lt hlt)] at h
      cases h

end

/-- Every chunk of a payload but the first starts on a page boundary. -/
theorem chunks_tail_starts_page {pageSize : Nat} {mem : DevAddr} {len : Nat} {c : Chunk} (hpage : 1 ≤ pageSize)
    (hdvd : pageSize ∣ 2 ^ 16) (h : c ∈ (chunks pageSize mem len).tail) : c.m.toNat % pageSize = 0 := by
  cases len with
  | zero => cases h
  | succ len =>
    rw [chunks, chunksFrom_of_lt (Nat.succ_pos len), List.tail_cons] at h
    exact chunksFrom_starts_page hpage hdvd (chunkAt_next_starts_page hpage hdvd) h

/-- Settles O35: each chunk is what the loop takes at its offset, and the loop goes on from its end. -/
theorem chunksRespectPages : Obligations.ChunksRespectPages := by
  intro pageSize mem data hpage
  refine ⟨chunksFrom_flatMap hpage data (Nat.le_refl _), fun c hc => ?_,
    fun c => chunksFrom_dropLast_fills_page hpage, fun hdvd c => chunks_tail_starts_page hpage hdvd⟩
  obtain ⟨off, hlt, rfl⟩ := mem_chunksFrom hc
  exact ⟨chunkAt_n_pos hpage hlt, chunkAt_in_payload hlt, chunkAt_m, chunkAt_fits_page hpage⟩

/-! ### Zero lengths -/

/-- With no master operation running, one that ends at once returns its result and advances the position. -/
theorem State.finish_at_rest {s : State} (hctx : s.ctx = .fg) (hseq : s.master.seq = none) (r : Return) :
    s.finish r = { s with log := { s.log with returns := s.log.returns ++ [r] }, fgPc := s.fgPc + 1 } := by
  rw [State.finish_of_seq_none r hseq]
  exact State.retire_of_fg hctx

/-- A failed read returns some bytes, and takes a free value for them. -/
theorem State.failRead_at_rest {s : State} (hctx : s.ctx = .fg) (hseq : s.master.seq = none) (buf : List Byte) :
    s.finishRead false buf = { s with
      log := { s.log with returns := s.log.returns ++ [.data false (Config.freeBytes s.env.drawn)] }
      env := { s.env with drawn := s.env.drawn + 1 }
      fgPc := s.fgPc + 1 } :=
  State.finish_at_rest (s := s.countDraw) hctx hseq _

/-- Settles O37: the argument check of each operation comes before its first atomic step. -/
theorem zeroLengthsFail : Obligations.ZeroLengthsFail := by
  intro a n mem tx s hctx hseq
  have hwrite := State.finish_at_rest hctx hseq (.done false)
  have hread := State.failRead_at_rest hctx hseq []
  have hadmitted := fun body => whenAdmitted_of .fg false s body hctx nofun
  refine ⟨?_, ?_, ⟨Config.freeBytes s.env.drawn, ?_⟩, ⟨Config.freeBytes s.env.drawn, ?_⟩,
    fun hlen hzero => ⟨Config.freeBytes s.env.drawn, ?_⟩⟩
  · rw [exec, execMWrite, hadmitted]
    exact congrArg Host.Outcome.next hwrite
  · rw [exec, execDevWrite, hadmitted]
    exact congrArg Host.Outcome.next hwrite
  · rw [exec, execMRead, hadmitted]
    exact congrArg Host.Outcome.next hread
  · rw [exec, execDevRead, hadmitted]
    exact congrArg Host.Outcome.next hread
  · have hempty : tx.length = 0 ∨ n.toNat = 0 := hzero.imp List.length_eq_zero_iff.mpr fun hn => congrArg _ hn
    rw [exec, execMWriteRead, hadmitted, (payloadFits_iff tx).mpr hlen]
    exact (if_pos hempty).trans (congrArg Host.Outcome.next hread)

end Sys2Proof.Machine

/-! PROOFS. Errors taken by the interrupt-context operations (60_exceptions.md): how much one of them can add to the logs
of errors and calls, and what that does to the fault bits. -/

namespace Sys2Proof.Machine

/-! ### At most one report and one re-arm (rules R307, R309) -/

/-- From `s` to `t` the error log has gained one entry at most, and the call log the calls of one re-arm at most, whose
check is the one way a fault bit is set (rules R182, R354). -/
structure LogsOneError (s t : State) : Prop where
  errlog : t.log.errlog = s.log.errlog ∨ ∃ e, t.log.errlog = s.log.errlog ++ [e]
  rearm : (t.log.calllog = s.log.calllog ∧ t.log.faults = s.log.faults) ∨
    (t.log.calllog = s.log.calllog ++ rearmEvents ∧ t.log.faults = faultsAfterRearm s)

/-- A mark of refusal or a result is no error. -/
theorem logsOneError_keep {s t : State}
    (h : t.log = { s.log with refused := t.log.refused, returns := t.log.returns }) : LogsOneError s t where
  errlog := .inl (by rw [h])
  rearm := .inl (by rw [h]; exact ⟨rfl, rfl⟩)

theorem LogsOneError.retire {s t : State} (h : LogsOneError s t) : LogsOneError s t.retire where
  errlog := by simpa using h.errlog
  rearm := by simpa using h.rearm

/-- An operation of the engine ends, with a mark or a result at most. -/
theorem logsOneError_retire {s u : State}
    (h : u.log = { s.log with refused := u.log.refused, returns := u.log.returns }) : LogsOneError s u.retire :=
  (logsOneError_keep h).retire

/-- With no callback registered a report adds nothing (rule R302). -/
theorem reported_errlog (s : State) (k : ErrorKind) (f : Flags) (d : Bool) (ts : Timestamp) :
    (reported s k f d ts).errlog = s.log.errlog ∨ ∃ e, (reported s k f d ts).errlog = s.log.errlog ++ [e] := by
  by_cases hcb : s.cb = true
  · exact .inr ⟨_, if_pos hcb⟩
  · exact .inl (if_neg hcb)

theorem State.report_logsOneError (s : State) (k : ErrorKind) (f : Flags) (d : Bool) (ts : Timestamp) :
    LogsOneError s (s.report k f d ts) where
  errlog := by simpa using reported_errlog s k f d ts
  rearm := .inl (by simp [reported])

theorem State.report_rearm_logsOneError (s : State) (k : ErrorKind) (f : Flags) (d : Bool) (ts : Timestamp) :
    LogsOneError s (s.report k f d ts).rearm where
  errlog := by simpa using reported_errlog s k f d ts
  rearm := .inr (by simp [reported, faultsAfterRearm])

/-- An error taken is one report and one forced reset (rule R301). -/
theorem ErrorTaken.logsOneError {s t : State} {k : ErrorKind} {f : Flags} {d : Bool} (h : ErrorTaken s k f d t) :
    LogsOneError s t where
  errlog := h.errlog ▸ reported_errlog s k f d _
  rearm := .inr ⟨h.calllog, h.faults⟩

/-- With the ring full a message is one report, and one re-arm where the configuration asks it (rule R142). -/
theorem State.acceptMessage_logsOneError (s : State) (m : Message) : LogsOneError s (s.acceptMessage m) := by
  unfold State.acceptMessage
  split
  · exact logsOneError_keep rfl
  · split
    · split
      · exact s.report_rearm_logsOneError ..
      · exact s.report_logsOneError ..
    · exact logsOneError_keep rfl

/-- What is added to the logs depends, of the state before it, on the logs and on who owns the lines alone. -/
theorem LogsOneError.of_eq {s u t : State} (h : LogsOneError u t) (hlog : u.log = s.log) (hmaster : u.master = s.master) :
    LogsOneError s t where
  errlog := hlog ▸ h.errlog
  rearm := by simpa [faultsAfterRearm, hlog, hmaster] using h.rearm

/-- An operation that is not admitted is marked and retired, so only its body is left to look at. -/
theorem whenAdmitted_logsOneError {a : Agent} {needsInit : Bool} {s : State}
    {body : State → Host.Outcome State Fault Refusal} (h : s.ctx = a → Answers (LogsOneError s) (body s)) :
    Answers (LogsOneError s) (whenAdmitted a needsInit s body) := by
  have hrefuse : ∀ r, LogsOneError s (s.refuseOp r) := fun _ => logsOneError_retire rfl
  obtain ⟨hctx, -, heq⟩ | ⟨-, -, heq⟩ | ⟨-, -, -, heq⟩ | ⟨-, -, -, heq⟩ := whenAdmitted_cases a needsInit s body <;>
    rw [heq]
  · exact h hctx
  · exact .next (hrefuse _)
  · exact .next (hrefuse _)
  · exact .next (logsOneError_retire rfl)

/-- Each branch of an interrupt-context operation takes at most one error, or reports one loss of a message. -/
theorem exec_logsOneError {i : Instr} (hagent : i.agent = .irq) (s : State) :
    Answers (LogsOneError s) (exec i s) := by
  have hskip : Answers (LogsOneError s) (.next s.retire) := .next (logsOneError_retire rfl)
  cases i <;> simp only [Instr.agent, reduceCtorEq] at hagent <;> apply whenAdmitted_logsOneError <;> intro hctx
  case onStart => exact .next (logsOneError_retire rfl)
  case onByte =>
    refine .ite (fun _ => hskip) fun _ => .ite (fun _ => .next ?_) fun _ => .next ?_
    · exact logsOneError_retire rfl
    · exact (s.takeError_taken _ _ _ hctx).logsOneError
  case onStop =>
    refine .ite (fun _ => .next (LogsOneError.retire ?_)) fun _ => .next (LogsOneError.retire ?_)
    · exact (s.drawNow.2.report_logsOneError ..).of_eq (by simp) (by simp)
    · exact (s.drawNow.2.clearFrame.acceptMessage_logsOneError _).of_eq (by simp) (by simp)
  case onError => exact .next (s.takeError_taken _ _ _ hctx).logsOneError
  case onTick1ms =>
    refine .ite (fun _ => hskip) fun _ => .ite (fun _ => .next ?_) fun _ => .next ?_
    · rw [State.takeError_frame]
      exact (s.takeError_taken _ _ _ hctx).logsOneError
    · exact logsOneError_retire rfl
  case respRead =>
    exact .ite (fun _ => .next (logsOneError_retire rfl)) fun _ => .next (logsOneError_retire rfl)

/-- Settles O21: the six operations have in common what they add to the logs. -/
theorem irqOperationsAreBounded : Obligations.IrqOperationsAreBounded := by
  intro i s t hagent hexec
  have hlogs := exec_logsOneError hagent s t hexec
  exact ⟨hlogs.errlog, hlogs.rearm.imp And.left And.left⟩

end Sys2Proof.Machine

/-! PROOFS. Reset and hazards (70_reset_and_hazards.md): the machine at power-on, the second of two resets, and a re-arm
made while the master owns the lines. -/

namespace Sys2Proof.Machine

/-! ### The fault bit of a re-arm (rules R182, R354) -/

/-- A re-arm adds nothing to the fault bits where the one it can set is not due, or is there already. -/
theorem faultsAfterRearm_eq_self {s : State} (h : s.master.owns = true → FaultMark.rearmDuringMaster ∈ s.log.faults) :
    faultsAfterRearm s = s.log.faults :=
  if_neg fun ⟨howns, hnew⟩ => hnew (h howns)

theorem mem_faultsAfterRearm {s : State} (howns : s.master.owns = true) :
    FaultMark.rearmDuringMaster ∈ faultsAfterRearm s := by
  unfold faultsAfterRearm
  split
  · exact List.mem_append_right _ (List.mem_singleton_self _)
  · next h => exact by_contra fun hnew => h ⟨howns, hnew⟩

/-- Settles O23: the operation made no re-arm, and left the call log and the fault bits alone, or it made one, whose check
is of who owned the lines before it. -/
theorem rearmDuringMasterSetsTheFault : Obligations.RearmDuringMasterSetsTheFault := by
  intro i s t hagent hexec
  obtain ⟨hcalls, hfaults⟩ | ⟨-, hfaults⟩ := (exec_logsOneError hagent s t hexec).rearm <;> rw [hfaults]
  · exact ⟨fun _ hchanged => absurd hcalls hchanged, fun _ => rfl⟩
  · exact ⟨fun howns _ => mem_faultsAfterRearm howns,
      fun hfree => faultsAfterRearm_eq_self fun howns => absurd howns (by simp [hfree])⟩

/-! ### A second reset (rule R345) -/

/-- The fault bit is set already where it is due. -/
theorem faultsAfterRearm_cleared (s : State) : faultsAfterRearm (cleared s) = (cleared s).log.faults :=
  faultsAfterRearm_eq_self fun howns => mem_faultsAfterRearm (s := s) howns

/-- The buffers are empty already, so a second reset adds the calls of its re-arm and nothing else. -/
theorem cleared_cleared (s : State) :
    cleared (cleared s) =
      { cleared s with log := { (cleared s).log with calllog := (cleared s).log.calllog ++ rearmEvents } } := by
  rw [cleared, faultsAfterRearm_cleared]
  rfl

/-- Settles O26: RESET leaves the context and `life` as they are, so a second one is admitted too, and the engine it
clears is a cleared one. -/
theorem resetIsIdempotent : Obligations.ResetIsIdempotent := by
  intro s t u hadmit hfirst hsecond
  have hreset := resetClearsTheEngine.2
  rw [hreset s hadmit] at hfirst
  cases hfirst
  have hagain : Admitted .reset { cleared s with fgPc := s.fgPc + 1 } := hadmit
  rw [hreset _ hagain] at hsecond
  cases hsecond
  exact congrArg (fun c : State => { c with fgPc := s.fgPc + 1 + 1 }) (cleared_cleared s)

/-! ### Power-on (rule R340) -/

/-- Settles O47: the values `State.reset` writes out. -/
theorem powerOnValues : Obligations.PowerOnValues := ⟨rfl, rfl, rfl, rfl, rfl, rfl, rfl, rfl⟩

/-- The ring of RESET, with no message in any slot (log entry 17). -/
theorem ringOk_blank {p : Params} (hpos : 0 < p.ringCapacity) :
    RingOk p { slots := List.replicate p.ringCapacity Message.blank, head := 0, tail := 0, count := 0 } where
  slotCount := List.length_replicate
  headRange := hpos
  tailRange := hpos
  countRange := Nat.zero_le _
  headPlace := (Nat.zero_mod _).symm
  messages := fun _ hm => List.eq_of_mem_replicate hm ▸ ⟨rfl, Nat.zero_le _, Nat.two_pow_pos _⟩

/-- At power-on the master owns nothing, whatever the platform's configuration of the lines (rule R340). -/
theorem State.reset_sound : State.reset.Sound where
  cfgWf := by decide
  frame := frameOk_empty _ _
  ring := ringOk_blank (by decide)
  resp := respOk_empty _
  lines := ⟨rfl, nofun⟩
  faults := List.nodup_nil

/-- Settles O48: the buffers are empty, and the master is at rest. -/
theorem invariantAtPowerOn : Obligations.InvariantAtPowerOn :=
  State.reset.inv_iff.mpr ⟨State.reset_sound, ⟨fun _ => rfl, nofun⟩, rfl⟩

end Sys2Proof.Machine

/-! PROOFS. The records written out in the test vectors (95_test_vectors.md, parts 2.1 and 3.4). -/

namespace Sys2Proof

/-- A stream that is the record of an operation, and no more, decodes to that operation. -/
theorem decode_of_encode_eq {i : Instr} {bs : List Byte} (hwf : i.wf = true) (hrecord : encode i = bs) :
    decode bs = .ok (i, []) := by
  rw [← hrecord, ← List.append_nil (encode i)]
  exact decodeOfEncode i [] hwf

/-- Settles O8: each of the eight is the record `encode` writes for its operation, so it decodes to it by O1. -/
theorem specWordsDecode : Obligations.SpecWordsDecode := by
  unfold Obligations.SpecWordsDecode
  and_intros <;> exact decode_of_encode_eq rfl rfl

end Sys2Proof
